-- ==== Sys2Proof/Word.lean ====
section
/-! DEFINITION. The words of the CV2640: bytes of the link, 16-bit samples, and pixels. -/

namespace Sys2Proof

/-- One byte of the Record Link or of the Front-End Control Port. -/
abbrev Byte := BitVec 8

/-- A sample, a table entry or a check: 16 bits (spec/00_scope.md, "Samples"). -/
abbrev Half := BitVec 16

/-- A pixel: four 16-bit samples, R, G, B and IR (spec/00_scope.md, "Samples"). -/
structure Pixel where
  r : Half
  g : Half
  b : Half
  ir : Half
deriving DecidableEq, Repr

/-- One value for each of the four channels. -/
structure PerChannel (α : Type) where
  r : α
  g : α
  b : α
  ir : α
deriving DecidableEq, Repr

/-- The same value for each of the four channels. -/
def PerChannel.const {α : Type} (x : α) : PerChannel α := ⟨x, x, x, x⟩

/-- Apply a function channel by channel: each channel stands alone (R11). -/
def PerChannel.map {α β : Type} (f : α → β) (p : PerChannel α) : PerChannel β :=
  ⟨f p.r, f p.g, f p.b, f p.ir⟩

/-- Combine two values channel by channel. -/
def PerChannel.zip {α β γ : Type} (f : α → β → γ) (p : PerChannel α) (q : PerChannel β) :
    PerChannel γ :=
  ⟨f p.r q.r, f p.g q.g, f p.b q.b, f p.ir q.ir⟩

/-- The four channels of a pixel. -/
def Pixel.samples (p : Pixel) : PerChannel Half := ⟨p.r, p.g, p.b, p.ir⟩

/-- A record of the link without its sync pair and check: kind, tag and payload (R166). -/
structure Record where
  kind : Byte
  tag : Byte
  payload : List Byte
deriving DecidableEq, Repr

end Sys2Proof
end

