-- ==== Sys2Proof/Syntax.lean ====
section
/-! DEFINITION. The commands of the CV2640: one constructor for each row of spec/opcode_table.json,
in the table's order. -/

namespace Sys2Proof

/-- A byte of a front-end transfer that the front end can leave unacknowledged (R18). -/
inductive AfeByte where
  | address
  | register
  | data
deriving DecidableEq, Repr

/-- The rows of spec/opcode_table.json. A command of chapter 10 carries the tag and the payload of its
record (R166, R197); the other rows carry what the outside world supplies with the event. -/
inductive Instr where
  /-- POWER_ON (R165). -/
  | powerOn
  /-- RESET_PIN (R165). -/
  | resetPin
  /-- RECORD_RECEIVED (R167): the bytes that arrive on the link, in order. -/
  | recordReceived (bytes : List Byte)
  /-- INTER_BYTE_TIMEOUT (R168). -/
  | interByteTimeout
  /-- IDENTIFY (R180). -/
  | identify (tag : Byte) (payload : List Byte)
  /-- STATUS (R181). -/
  | status (tag : Byte) (payload : List Byte)
  /-- SOFT_RESET (R185). -/
  | softReset (tag : Byte) (payload : List Byte)
  /-- SOFT_RESET_TAKES_EFFECT (R177): the last byte of the SOFT_RESET reply is sent. -/
  | softResetTakesEffect
  /-- ABORT (R155, R156). -/
  | abort (tag : Byte) (payload : List Byte)
  /-- SETUP (R182). -/
  | setup (tag : Byte) (payload : List Byte)
  /-- PROFILE (R108). -/
  | profile (tag : Byte) (payload : List Byte)
  /-- FORMAT_RULE (R48). -/
  | formatRule (tag : Byte) (payload : List Byte)
  /-- SCAN_START (R149). -/
  | scanStart (tag : Byte) (payload : List Byte)
  /-- MARK (R161). -/
  | mark (tag : Byte) (payload : List Byte)
  /-- SPEED_CAP (R134). -/
  | speedCap (tag : Byte) (payload : List Byte)
  /-- LAMP (R16). -/
  | lamp (tag : Byte) (payload : List Byte)
  /-- HOME (R132). -/
  | home (tag : Byte) (payload : List Byte)
  /-- MOVE (R133). -/
  | move (tag : Byte) (payload : List Byte)
  /-- AFE_WRITE (R19). -/
  | afeWrite (tag : Byte) (payload : List Byte)
  /-- AFE_READ (R19). -/
  | afeRead (tag : Byte) (payload : List Byte)
  /-- CAL_RUN (R8). -/
  | calRun (tag : Byte) (payload : List Byte)
  /-- CAL_LOAD (R14). -/
  | calLoad (tag : Byte) (payload : List Byte)
  /-- CAL_READ (R15). -/
  | calRead (tag : Byte) (payload : List Byte)
  /-- CAUSE_ENABLE (R191). -/
  | causeEnable (tag : Byte) (payload : List Byte)
  /-- CAUSE_CLEAR (R192). -/
  | causeClear (tag : Byte) (payload : List Byte)
  /-- UNKNOWN_KIND (R170): a good record whose kind is no command kind. -/
  | unknownKind (kind tag : Byte) (payload : List Byte)
  /-- RECORD_SENT (R175). -/
  | recordSent
  /-- LINK_HOLD_ACTIVE (R176). -/
  | linkHoldActive
  /-- LINK_HOLD_INACTIVE (R176). -/
  | linkHoldInactive
  /-- HOLDER_REMOVED (R157). -/
  | holderRemoved
  /-- HOLDER_INSERTED (R189). -/
  | holderInserted
  /-- HOME_EDGE (R132): the HOME input becomes active. -/
  | homeEdge
  /-- HOME_RELEASED (R132): the HOME input becomes inactive. -/
  | homeReleased
  /-- HOME_STEP_LIMIT (R132). -/
  | homeStepLimit
  /-- END_EDGE (R131): the END input becomes active. -/
  | endEdge
  /-- MOTOR_STEP (R128). `endReleased`: the END input has become inactive since the last row (R131);
  `elapsed`: the µs elapsed in the ramp step in progress, if there is one (R138). -/
  | motorStep (endReleased : Bool) (elapsed : Nat)
  /-- BRAKING_STEP (R130). `endReleased` as in MOTOR_STEP. -/
  | brakingStep (endReleased : Bool)
  /-- HOLD_TIMER_EXPIRY (R139, R141). -/
  | holdTimerExpiry
  /-- RAMP_STEP_END (R138). -/
  | rampStepEnd
  /-- WATCHDOG_EXPIRY (R3). -/
  | watchdogExpiry
  /-- LINE_COMPLETE (R4): the raw pixels that arrive. `dfdFirst`: whether the Defect Detector takes the
  line before the Frame Detector; R61 lets either be first. -/
  | lineComplete (dfdFirst : Bool) (pixels : List Pixel)
  /-- REPAIR_COMPLETE (R100). -/
  | repairComplete
  /-- WARMUP_EXPIRY (R16). -/
  | warmupExpiry
  /-- DARK_SETTLE_END (R9). -/
  | darkSettleEnd
  /-- CAL_LINE_TIMER (R9). -/
  | calLineTimer
  /-- CAL_LINE_COMPLETE (R9): the raw pixels that arrive. -/
  | calLineComplete (pixels : List Pixel)
  /-- AFE_TRANSFER_COMPLETE (R18): the byte the front end did not acknowledge, if any, and the byte it
  sent in a read. -/
  | afeTransferComplete (nack : Option AfeByte) (data : Byte)
deriving DecidableEq, Repr

end Sys2Proof
end

