-- ==== Sys2Proof/Decode.lean ====
section
/-! DEFINITION. The decoder of table words. No row of spec/opcode_table.json gives its command any bits
("fixed" and "fields" are empty in every row, and spec/98_reader.md counts 0 rows with either), so no
word spells a command by the table. How commands are carried on the link is the Record Link's matter
(R166, R196, R197): Machine/Link.lean and Machine/Operands.lean. -/

namespace Sys2Proof

/-- The command that a word spells by the table's bits: none, since no row gives bits. -/
def decodeTableWord (_nbits _w : Nat) : Option Instr := none

end Sys2Proof
end

