-- ==== Sys2Proof/Config.lean ====
section
/-! DEFINITION. The constant capacities and limits of the CV2640 (spec/00_scope.md, "Capacities and
limits"; R180). The spec fixes every one of them, so no constant here is without a body. -/

namespace Sys2Proof.Config

/-- Line Ring capacity, in lines (R21). -/
def ringCapacity : Nat := 128
/-- The newest lines kept while SCANNING (R25). -/
def holdback : Nat := 48
/-- Frame Table capacity (R42). -/
def frameCapacity : Nat := 8
/-- Region Table capacity (R71). -/
def regionCapacity : Nat := 64
/-- Runs kept for one line (R66). -/
def runsPerLine : Nat := 32
/-- The most raw lines a region may span (R76). -/
def maxRegionHeight : Nat := 64
/-- Probe lines of a tentative frame (R44). -/
def probeLines : Nat := 32
/-- Reach of the neighbour search, in pixels or lines (R92, R93). -/
def repairReach : Nat := 16
/-- Reply queue capacity (R171). -/
def replyCapacity : Nat := 4
/-- Report queue capacity (R172). -/
def reportCapacity : Nat := 8
/-- Marker queue capacity (R161). -/
def markerCapacity : Nat := 4
/-- Preview row queue capacity, in rows (R123). -/
def previewCapacity : Nat := 2
/-- The longest payload the receiver takes (R166). -/
def receiveLimit : Nat := 1024
/-- The longest payload the device sends (R166). -/
def transmitLimit : Nat := 2048
/-- Backtrack and run-up distance, in line-steps (R141, R143). -/
def backtrackDistance : Nat := 48
/-- One ramp step, in µs (R138). -/
def rampStepMicros : Nat := 40000
/-- The homing step limit (R132). -/
def homingLimit : Nat := 65535
/-- The least span of a strong calibration column (R11). -/
def strongSpan : Nat := 1024
/-- The gain that stands for 1.0 (R6, R11). -/
def unityGain : Nat := 4096
/-- The greatest value of a sample, a width or a position. -/
def maxHalf : Nat := 65535
/-- The part code of IDENTIFY (R180). -/
def partCode : Nat := 0x2640
/-- The revision of the device this manual describes (R180). -/
def revision : Nat := 1

end Sys2Proof.Config
end

