-- ==== Sys2Proof/Machine/State.lean ====
section
/-! DEFINITION. The state of the CV2640, block by block, as plain data, and the state after power-on.
Sums that the spec calls cleared are empty lists: an entry that a list does not hold is 0 (log 24). -/

namespace Sys2Proof.Machine

/-! ## Shared kinds -/

/-- The speed grades (spec/00_scope.md, "The speed grades"); a lower number is slower. -/
inductive Grade where
  | s0 | s1 | s2 | s3
deriving DecidableEq, Repr

/-- The operation states (R148). -/
inductive OpState where
  | idle | positioning | calibrating | preparing | scanning | draining | stopping | faulted
deriving DecidableEq, Repr

/-- The lamp states (R16). -/
inductive Lamp where
  | off | warming | on
deriving DecidableEq, Repr

/-- The nine causes (R187), in the order of their identifiers (R196). -/
inductive Cause where
  | linkError | rxOverrun | holderOut | lineLate | afeNack | endStop | regionTableFull
  | previewSkipped | halted
deriving DecidableEq, Repr

/-- A set of causes: bit i belongs to the cause with identifier i (R195). -/
abbrev CauseSet := BitVec 9

/-- The fault kinds (R164). -/
inductive FaultKind where
  | lineLate | endStop | homeFailed
deriving DecidableEq, Repr

/-- Defect tallies, of a frame or of the scan (R42, R57). -/
structure Tally where
  repaired : Nat
  unrepairable : Nat
  pixelsRepaired : Nat
  pixelsUnrepaired : Nat
  untracked : Nat
  coalesced : Nat
deriving DecidableEq, Repr

/-- Every count 0. -/
def Tally.zero : Tally := ⟨0, 0, 0, 0, 0, 0⟩

/-- An output profile (section 6.2). -/
structure Profile where
  /-- The channel set is RGBI, not RGB. -/
  infrared : Bool
  /-- The depth is 8 bits, not 16. -/
  eight : Bool
  mirror : Bool
  mc : Nat
  mt : Nat
  mb : Nat
  fw : Nat
  fill : Nat
deriving DecidableEq, Repr

/-- The active profile after power-on (R127). -/
def Profile.default : Profile := ⟨false, false, false, 0, 0, 0, 0, 0⟩

/-- The scan setup: the fields of the table in section 10.3. -/
structure Setup where
  p0 : Nat
  n : Nat
  w : Nat
  wl : Nat
  wr : Nat
  lp : Nat
  baseR : Nat
  baseG : Nat
  baseIR : Nat
  gl : Nat
  il : Nat
  gapMin : Nat
  imageMin : Nat
  mfl : Nat
  edge : Nat
  t : Nat
  d : Nat
  k : Nat
  repair : Bool
  preview : Bool
  passRejected : Bool
  afeAddress : Nat
deriving DecidableEq, Repr

/-- The power-on defaults of every SETUP field (section 10.3, R165). -/
def Setup.default : Setup where
  p0 := 256
  n := 1
  w := 8192
  wl := 0
  wr := 8191
  lp := 1000
  baseR := 40000
  baseG := 40000
  baseIR := 40000
  gl := 224
  il := 192
  gapMin := 6
  imageMin := 6
  mfl := 8000
  edge := 224
  t := 192
  d := 2
  k := 64
  repair := true
  preview := false
  passRejected := false
  afeAddress := 0x2C

/-! ## Capture Unit (chapter 1) -/

/-- One calibration table: (column, value) pairs, columns strictly rising, no value 0; an unlisted
column reads 0 (R20: every entry 0 after power-on). -/
abbrev Table := List (Nat × Half)

/-- The line in flight: its number and the pixels received (section 1.1, R1, R2). -/
structure Flight where
  number : Nat
  received : List Pixel
deriving DecidableEq, Repr

/-- The phases of a calibration run (section 1.5). -/
inductive CalPhase where
  | move | darkSettle | darkCapture | warmUp | whiteCapture | report
deriving DecidableEq, Repr

/-- The working storage of a calibration run (section 1.1, R8 to R12). -/
structure CalRun where
  phase : CalPhase
  lines : Nat
  target : Nat
  darkSums : PerChannel (List Nat)
  whiteSums : PerChannel (List Nat)
  darkAvg : PerChannel (List Nat)
  whiteAvg : PerChannel (List Nat)
  gains : PerChannel (List Nat)
  weak : PerChannel Nat
deriving DecidableEq, Repr

/-- The outcomes of CAL_DONE (R186). -/
inductive CalOutcome where
  | passed | failed | aborted | late
deriving DecidableEq, Repr

/-- A CAL_DONE report that waits to enter the report queue; its contents are fixed (R186). -/
structure CalReport where
  outcome : CalOutcome
  lines : Nat
  target : Nat
  weak : PerChannel Nat
  valid : Bool
deriving DecidableEq, Repr

/-- A transfer on the Front-End Control Port (R18, R19). -/
structure AfeTransfer where
  write : Bool
  device : Nat
  register : Byte
  data : Byte
deriving DecidableEq, Repr

/-- The Capture Unit (section 1.1). -/
structure Cap where
  dark : PerChannel Table
  gain : PerChannel Table
  /-- The tables are VALID (R7). -/
  valid : Bool
  gateOpen : Bool
  inFlight : Option Flight
  nextLine : Nat
  remaining : Nat
  /-- The watchdog runs (R3). -/
  watchdog : Bool
  cal : Option CalRun
  /-- The calibration line timer runs (R9). -/
  calTimer : Bool
  calCount : Nat
  lamp : Lamp
  /-- The warm-up timer runs (R16). -/
  warmup : Bool
  /-- The port is BUSY with this transfer; none when it is IDLE. -/
  afe : Option AfeTransfer
  /-- CAL_DONE due and not yet placed (R172). -/
  report : Option CalReport
deriving DecidableEq, Repr

/-! ## Line Ring (chapter 2) -/

/-- One ring entry (section 2.1). -/
structure RingLine where
  number : Nat
  pixels : List Pixel
  mask : List Bool
  final : Bool
deriving DecidableEq, Repr

/-- The Line Ring: its entries, oldest first (R21). Its demand is held in `Trc.ring` (log 24). -/
structure Rng where
  lines : List RingLine
deriving DecidableEq, Repr

/-! ## Frame Detector (chapter 3) -/

/-- The classifier state (R38, R39). -/
inductive Classifier where
  | gap | image
deriving DecidableEq, Repr

/-- A format rule (R48). -/
structure FormatRule where
  enabled : Bool
  least : Nat
  most : Nat
deriving DecidableEq, Repr

/-- A rule after power-on: disabled, minimum 0, maximum 0 (R60). -/
def FormatRule.off : FormatRule := ⟨false, 0, 0⟩

/-- The four format rules (R48). -/
structure FormatRules where
  r0 : FormatRule
  r1 : FormatRule
  r2 : FormatRule
  r3 : FormatRule
deriving DecidableEq, Repr

/-- Why a frame closed (R42). -/
inductive CloseReason where
  | gap | forced | scanEnd
deriving DecidableEq, Repr

/-- What a frame holds from its probe completion on (R42, R46 to R50). -/
structure Probed where
  number : Nat
  left : Nat
  right : Nat
  rule : Option Nat
  rejected : Bool
  passed : Bool
  fallback : Bool
  firstCol : Int
  colCount : Nat
  nextRow : Nat
  openReported : Bool
deriving DecidableEq, Repr

/-- What a frame holds from its close on (R42, R51 to R53). -/
structure Closed where
  bottom : Nat
  reason : CloseReason
  lastRow : Nat
deriving DecidableEq, Repr

/-- A Frame Table entry (R42). -/
structure Frame where
  top : Nat
  profile : Profile
  tally : Tally
  probed : Option Probed
  closed : Option Closed
deriving DecidableEq, Repr

/-- The states of a frame (R42). -/
inductive FrameState where
  | tentative | opened | closed
deriving DecidableEq, Repr

/-- A report of the Frame Detector that is due and not yet placed: FRAME_OPEN with its fixed contents,
or the FRAME_DONE of a rejected frame not passed, formed when it enters (R50, R54, R186). -/
inductive FrdReport where
  | frameOpen (number : Nat) (payload : List Byte)
  | frameDone (number : Nat)
deriving DecidableEq, Repr

/-- The Frame Detector (section 3.1). Its table-full demand is held in `Trc.table` (log 24). -/
structure Frd where
  baseR : Nat
  baseG : Nat
  baseIR : Nat
  classifier : Classifier
  imageRun : Nat
  gapRun : Nat
  /-- Column sums from column WL on (R38, R44). -/
  probe : List Nat
  /-- The live entries, by top (R42). -/
  table : List Frame
  nextNumber : Nat
  rules : FormatRules
  outside : Tally
  waiting : List FrdReport
  /-- The last line handled (R116). -/
  handled : Nat
deriving DecidableEq, Repr

/-! ## Defect Detector (chapter 4) -/

/-- A run of a line: a column interval and its raw pixel count (R64, R65). -/
structure Run where
  lo : Nat
  hi : Nat
  raw : Nat
deriving DecidableEq, Repr

/-- A column interval. -/
structure Span where
  lo : Nat
  hi : Nat
deriving DecidableEq, Repr

/-- The states of a region (R71). -/
inductive RegionState where
  | opened | closing | ready | repairing
deriving DecidableEq, Repr

/-- A Region Table entry (R71). `lastSpan` is present while the region is OPEN. `gathered` holds the span
gathered on the line being handled (R72); it is absent between lines. `repaired` and `unrepaired` are present
from the end of the region's repair (R81). -/
structure Region where
  slot : Nat
  state : RegionState
  first : Nat
  last : Nat
  cols : Span
  lastSpan : Option Span
  gathered : Option Span
  raw : Nat
  repaired : Option Nat
  unrepaired : Option Nat
deriving DecidableEq, Repr

/-- The run list of one line (R67). -/
structure RunList where
  line : Nat
  runs : List Run
deriving DecidableEq, Repr

/-- The Defect Detector (section 4.1): the live regions in increasing slot order. -/
structure Dfd where
  history : List RunList
  regions : List Region
  nextMask : Nat
deriving DecidableEq, Repr

/-! ## Repair Engine (chapter 5) -/

/-- The region under repair, fixed at the take (R88, R90). -/
structure Repairing where
  slot : Nat
  first : Nat
  last : Nat
  cols : Span
deriving DecidableEq, Repr

/-- The Repair Engine (section 5.1): IDLE when no region is under repair. Its demand is held in
`Trc.repair` (log 24). -/
structure Rpe where
  queue : List Nat
  current : Option Repairing
  repaired : Nat
  unrepaired : Nat
deriving DecidableEq, Repr

/-! ## Crop Output Engine (chapter 6) -/

/-- The output steps (R115). -/
inductive OutStep where
  | idle | waiting | sending | closing
deriving DecidableEq, Repr

/-- The three sums of a preview box (R122). -/
structure BoxSum where
  r : Nat
  g : Nat
  b : Nat
deriving DecidableEq, Repr

/-- A completed preview row: its index and its pixels as bytes R, G, B (R123). -/
structure PreviewRow where
  index : Nat
  pixels : List (Byte × Byte × Byte)
deriving DecidableEq, Repr

/-- The Crop Output Engine (section 6.1). -/
structure Coe where
  pendingProfile : Option Profile
  active : Profile
  step : OutStep
  frame : Option Nat
  segOffset : Nat
  settled : Nat
  preview : Bool
  boxes : List BoxSum
  lineCount : Nat
  rowIndex : Nat
  rows : List PreviewRow
  previewOffset : Nat
  previewDone : Bool
deriving DecidableEq, Repr

/-! ## Transport Controller (chapter 7) -/

/-- The motion states (R129). -/
inductive Motion where
  | parked | homing | moving | backtracking | approaching | cruising
deriving DecidableEq, Repr

/-- The DIR output: forward is toward increasing positions. -/
inductive Dir where
  | forward | backward
deriving DecidableEq, Repr

/-- The phases of a HOME move (R132). -/
inductive HomingPhase where
  | leaving | seeking
deriving DecidableEq, Repr

/-- The progress of a HOME move: phase and step count (R132). -/
structure Homing where
  phase : HomingPhase
  steps : Nat
deriving DecidableEq, Repr

/-- A motion command taken while the carriage brakes: it begins at the stop event (R130). -/
inductive Queued where
  | home
  | move (target : Nat)
deriving DecidableEq, Repr

/-- The Transport Controller (section 7.1). The resolved grade is `Trc.resolved` (log 24). The last six
fields are what R130, R138, R141 and R143 imply (log 19). -/
structure Trc where
  position : Half
  /-- The position is VALID (R128). -/
  valid : Bool
  motion : Motion
  braking : Bool
  target : Option Nat
  homing : Option Homing
  scanOn : Bool
  ring : Grade
  repair : Grade
  table : Grade
  cap : Grade
  current : Grade
  /-- The target of the ramp in progress; its 40 ms step timer then runs. -/
  ramp : Option Grade
  /-- The hold timer runs. -/
  hold : Bool
  resumeLine : Nat
  resumePos : Nat
  /-- The step interval that is running, in µs (R129, R130, R138). -/
  interval : Nat
  /-- The braking steps still to be issued (R130). -/
  brakesLeft : Nat
  dir : Dir
  /-- The hold timer has reached 50 ms while the carriage was braking (R141). -/
  holdDone : Bool
  /-- The Scan Controller has reported the lamp ON for this scan (R143). -/
  lampReady : Bool
  queued : Option Queued
deriving DecidableEq, Repr

/-! ## Scan Controller (chapter 8) -/

/-- The end reasons (R164). -/
inductive EndReason where
  | complete | aborted | holder | fault
deriving DecidableEq, Repr

/-- A marker (R161). -/
structure Marker where
  value : Half
  line : Option Nat
  reached : Bool
  aborted : Bool
deriving DecidableEq, Repr

/-- A FAULT that is due: its kind, the operation state in which it came, and the late line of LINE_LATE, 0 for
the other kinds. The rest is formed when it enters the report queue (R164, R186, log 10). -/
structure FaultReport where
  kind : FaultKind
  op : OpState
  line : Nat
deriving DecidableEq, Repr

/-- A report of the Scan Controller that is due: the MARK_REACHED of the marker then at the head, a
FAULT, or SCAN_END (R163). -/
inductive ScnReport where
  | markReached
  | fault (f : FaultReport)
  | scanEnd
deriving DecidableEq, Repr

/-- The five drain conditions (R154). -/
structure Drain where
  ringEmpty : Bool
  framesEmpty : Bool
  regionsEmpty : Bool
  previewDone : Bool
  parked : Bool
deriving DecidableEq, Repr

/-- All conditions clear (R150, R165). -/
def Drain.clear : Drain := ⟨false, false, false, false, false⟩

/-- The Scan Controller (section 8.1). -/
structure Scn where
  op : OpState
  setup : Setup
  captured : Nat
  frames : Nat
  slivers : Nat
  reseeks : Nat
  abandoned : Nat
  firstHeld : Nat
  drain : Drain
  endReason : Option EndReason
  /-- The fault kind that SCAN_END carries with reason FAULT (R164). -/
  endFault : Option FaultKind
  markers : List Marker
  /-- Waiting reports, in the order in which they became due (R163). -/
  due : List ScnReport
deriving DecidableEq, Repr

/-! ## Link Interface (chapter 9) -/

/-- The receive framer with the record being received: bytes so far and check so far (R167). -/
inductive Framer where
  | hunt
  | sync
  | header (bytes : List Byte) (check : Half)
  | payload (kind tag : Byte) (length : Nat) (bytes : List Byte) (check : Half)
  | check (record : Record) (check : Half) (first : Option Byte)
deriving DecidableEq, Repr

/-- The last link error (R168). -/
inductive LinkError where
  | none | crc | length | timeout
deriving DecidableEq, Repr

/-- The producers of reports (R172). -/
inductive Producer where
  | cap | frd | coe | scn
deriving DecidableEq, Repr

/-- The Link Interface (section 9.1). -/
structure Lif where
  framer : Framer
  lastError : LinkError
  slot : Option Record
  replies : List Record
  reports : List Record
  waitList : List Producer
  noticeDue : Bool
  /-- The record being sent; none when the transmitter is IDLE. -/
  tx : Option Record
  resetPending : Bool
deriving DecidableEq, Repr

/-! ## Notice Unit (section 10.7) and pins -/

/-- The Notice Unit (R187). `haltedCond` is the HALTED condition as last reported to it (R145, R189). -/
structure Ntu where
  pending : CauseSet
  enabled : CauseSet
  haltedCond : Bool
deriving DecidableEq, Repr

/-- The levels of the input pins (spec/00_scope.md, "Pins"): true is active. -/
structure Pins where
  holder : Bool
  home : Bool
  endStop : Bool
  linkHold : Bool
deriving DecidableEq, Repr

/-- The state of the CV2640 and the queue of commands that wait, first in, first out. -/
structure State where
  cap : Cap
  rng : Rng
  frd : Frd
  dfd : Dfd
  rpe : Rpe
  coe : Coe
  trc : Trc
  scn : Scn
  lif : Lif
  ntu : Ntu
  pins : Pins
  pending : List Instr
deriving DecidableEq, Repr

/-! ## How a row can stop -/

/-- The faults of the model. There is none: the spec's own faults are states of the machine with their
reports (R158, R159), and every row of the table has an effect in every state. -/
inductive Fault where
deriving DecidableEq, Repr

/-- The refusals of the model. -/
inductive Refusal where
  /-- A command that has no meaning yet. No arm of `exec` answers it. Safe: a refused command proves
  nothing about the device. -/
  | notModelled (mnemonic : String)
deriving DecidableEq, Repr

/-! ## Replacing one block -/

/-- The state with another Capture Unit. -/
def State.setCap (s : State) (x : Cap) : State := { s with cap := x }
/-- The state with another Line Ring. -/
def State.setRng (s : State) (x : Rng) : State := { s with rng := x }
/-- The state with another Frame Detector. -/
def State.setFrd (s : State) (x : Frd) : State := { s with frd := x }
/-- The state with another Defect Detector. -/
def State.setDfd (s : State) (x : Dfd) : State := { s with dfd := x }
/-- The state with another Repair Engine. -/
def State.setRpe (s : State) (x : Rpe) : State := { s with rpe := x }
/-- The state with another Crop Output Engine. -/
def State.setCoe (s : State) (x : Coe) : State := { s with coe := x }
/-- The state with another Transport Controller. -/
def State.setTrc (s : State) (x : Trc) : State := { s with trc := x }
/-- The state with another Scan Controller. -/
def State.setScn (s : State) (x : Scn) : State := { s with scn := x }
/-- The state with another Link Interface. -/
def State.setLif (s : State) (x : Lif) : State := { s with lif := x }
/-- The state with another Notice Unit. -/
def State.setNtu (s : State) (x : Ntu) : State := { s with ntu := x }
/-- The state with other pin levels. -/
def State.setPins (s : State) (x : Pins) : State := { s with pins := x }
/-- The state with another queue of waiting commands. -/
def State.setPending (s : State) (x : List Instr) : State := { s with pending := x }

/-! ## The state after power-on -/

/-- The Capture Unit after power-on or the RESET pin (R20). -/
def Cap.powerOn : Cap where
  dark := .const []
  gain := .const []
  valid := false
  gateOpen := false
  inFlight := none
  nextLine := 0
  remaining := 0
  watchdog := false
  cal := none
  calTimer := false
  calCount := 0
  lamp := .off
  warmup := false
  afe := none
  report := none

/-- The Frame Detector after power-on or the RESET pin (R60). -/
def Frd.powerOn : Frd where
  baseR := 40000
  baseG := 40000
  baseIR := 40000
  classifier := .gap
  imageRun := 0
  gapRun := 0
  probe := []
  table := []
  nextNumber := 1
  rules := ⟨.off, .off, .off, .off⟩
  outside := .zero
  waiting := []
  handled := 0

/-- The Crop Output Engine after power-on or the RESET pin (R127). -/
def Coe.powerOn : Coe where
  pendingProfile := none
  active := .default
  step := .idle
  frame := none
  segOffset := 0
  settled := 0
  preview := false
  boxes := []
  lineCount := 0
  rowIndex := 0
  rows := []
  previewOffset := 0
  previewDone := true

/-- The Transport Controller after power-on or the RESET pin (R147; the last six fields: log 19). -/
def Trc.powerOn : Trc where
  position := 0
  valid := false
  motion := .parked
  braking := false
  target := none
  homing := none
  scanOn := false
  ring := .s3
  repair := .s3
  table := .s3
  cap := .s3
  current := .s0
  ramp := none
  hold := false
  resumeLine := 0
  resumePos := 0
  interval := 0
  brakesLeft := 0
  dir := .forward
  holdDone := false
  lampReady := false
  queued := none

/-- The Scan Controller after power-on or the RESET pin, with the setup in force (R165). -/
def Scn.initial (setup : Setup) : Scn where
  op := .idle
  setup := setup
  captured := 0
  frames := 0
  slivers := 0
  reseeks := 0
  abandoned := 0
  firstHeld := 0
  drain := .clear
  endReason := none
  endFault := none
  markers := []
  due := []

/-- The Link Interface after any reset (R178). -/
def Lif.initial : Lif where
  framer := .hunt
  lastError := .none
  slot := none
  replies := []
  reports := []
  waitList := []
  noticeDue := false
  tx := none
  resetPending := false

/-- The Notice Unit after any reset: HOLDER_OUT is pending if the HOLDER input is inactive (R193). -/
def Ntu.initial (holder : Bool) : Ntu where
  pending := if holder then 0#9 else 4#9
  enabled := 0#9
  haltedCond := false

/-- Every block in its power-on state (R165), at the given pin levels and queue. -/
def State.powerOn (pins : Pins) (pending : List Instr) : State where
  cap := .powerOn
  rng := ⟨[]⟩
  frd := .powerOn
  dfd := ⟨[], [], 0⟩
  rpe := ⟨[], none, 0, 0⟩
  coe := .powerOn
  trc := .powerOn
  scn := .initial .default
  lif := .initial
  ntu := .initial pins.holder
  pins := pins
  pending := pending

/-- The machine right after reset. The spec gives no level for the input pins: DESIGN CHOICE, every
input inactive (log 5). -/
def State.reset : State := .powerOn ⟨false, false, false, false⟩ []

end Sys2Proof.Machine
end

