-- ==== Sys2Proof/Machine/Ops.lean ====
section
/-! DEFINITION. Operations that several blocks share: numbers as bytes, the calibration tables, grades,
and the parts of the state that the spec derives from others. -/

namespace Sys2Proof.Machine

/-! ## Numbers and bytes (R195) -/

/-- One byte. -/
def byte (n : Nat) : Byte := BitVec.ofNat 8 n

/-- A two-byte field, least significant byte first (R195). -/
def le16 (n : Nat) : List Byte := [byte n, byte (n / 256)]

/-- A four-byte field, least significant byte first (R195, R199). -/
def le32 (n : Nat) : List Byte := [byte n, byte (n / 256), byte (n / 65536), byte (n / 16777216)]

/-- A signed two-byte field in two's complement (R195). -/
def le16Signed (n : Int) : List Byte := le16 (BitVec.ofInt 16 n).toNat

/-- A flag: 0 for off, 1 for on (R195). -/
def flagByte (b : Bool) : Byte := if b then 1#8 else 0#8

/-- The byte at an offset of a payload, as a number. -/
def u8 (payload : List Byte) (i : Nat) : Nat := (payload.getD i 0#8).toNat

/-- The two-byte field at an offset of a payload (R195). -/
def u16 (payload : List Byte) (i : Nat) : Nat := u8 payload i + 256 * u8 payload (i + 1)

/-- A value brought into [lo, hi] (spec/00_scope.md, "Integer arithmetic"). -/
def clamp (lo hi x : Nat) : Nat := max lo (min hi x)

/-- A number as a 16-bit value. -/
def half (n : Nat) : Half := BitVec.ofNat 16 n

/-- Add two lists of sums entry by entry; an entry that a list does not hold is 0 (log 24). -/
def addSums : List Nat → List Nat → List Nat
  | [], ys => ys
  | xs, [] => xs
  | x :: xs, y :: ys => (x + y) :: addSums xs ys

/-! ## Calibration tables (R6, R14, R15, R20) -/

/-- The entry of a column; an unlisted column reads 0 (R20). -/
def Table.read : Table → Nat → Half
  | [], _ => 0
  | (c, v) :: rest, x => if c = x then v else if x < c then 0 else Table.read rest x

/-- Put an entry at the head of a table, unless it is 0, which no table lists. -/
def Table.link (x : Nat) (v : Half) (t : Table) : Table := if v = 0 then t else (x, v) :: t

/-- Write one entry, keeping the canonical form: columns rising, no value 0. -/
def Table.write : Table → Nat → Half → Table
  | [], x, v => Table.link x v []
  | (c, w) :: rest, x, v =>
    if c < x then (c, w) :: Table.write rest x v
    else if c = x then Table.link x v rest
    else Table.link x v ((c, w) :: rest)

/-- Write values into consecutive columns from the first upward (R12, R14). -/
def Table.writeFrom (t : Table) (first : Nat) : List Half → Table
  | [] => t
  | v :: vs => Table.writeFrom (Table.write t first v) (first + 1) vs

/-- The values of consecutive columns (R15). -/
def Table.readFrom (t : Table) (first : Nat) : Nat → List Half
  | 0 => []
  | n + 1 => Table.read t first :: Table.readFrom t (first + 1) n

/-- The canonical form from a least column on: columns strictly rising, no value 0. -/
def Table.wfFrom (least : Nat) : Table → Bool
  | [] => true
  | (c, v) :: rest => decide (least ≤ c) && decide (v ≠ 0) && Table.wfFrom (c + 1) rest

/-- The canonical form of a table. -/
def Table.wf (t : Table) : Bool := Table.wfFrom 0 t

/-- Every table of the Capture Unit is in canonical form. -/
def Cap.tablesWf (c : Cap) : Bool :=
  Table.wf c.dark.r && Table.wf c.dark.g && Table.wf c.dark.b && Table.wf c.dark.ir &&
  Table.wf c.gain.r && Table.wf c.gain.g && Table.wf c.gain.b && Table.wf c.gain.ir

/-! ## Grades -/

/-- The grade number: 0 for S0 to 3 for S3. -/
def Grade.num : Grade → Nat
  | .s0 => 0 | .s1 => 1 | .s2 => 2 | .s3 => 3

/-- The grade of a number; a number above 3 is clamped to 3 (R134). -/
def gradeOf : Nat → Grade
  | 0 => .s0 | 1 => .s1 | 2 => .s2 | _ => .s3

/-- The slower of two grades. -/
def Grade.min (a b : Grade) : Grade := if a.num ≤ b.num then a else b

/-- The grade one step from a grade toward a target (R138, R139). -/
def Grade.toward (a target : Grade) : Grade :=
  if a.num < target.num then gradeOf (a.num + 1)
  else if target.num < a.num then gradeOf (a.num - 1)
  else a

/-- The line period of a grade in µs; S0 has none (R129). -/
def Grade.period (lp : Nat) : Grade → Nat
  | .s0 => 0 | .s1 => 4 * lp | .s2 => 2 * lp | .s3 => lp

/-- The resolved grade: the minimum of the four demands (R135). -/
def Trc.resolved (t : Trc) : Grade := (t.ring.min t.repair).min (t.table.min t.cap)

/-! ## Derived parts of the state -/

/-- The scan setup in force (R182). -/
def State.setup (s : State) : Setup := s.scn.setup

/-- The ring's occupancy (R21). -/
def State.occupancy (s : State) : Nat := s.rng.lines.length

/-- The number of the newest ring entry (R21), if the ring holds one. -/
def State.newest (s : State) : Option Nat := s.rng.lines.getLast?.map (·.number)

/-- The ring's demand at an occupancy (R30). -/
def ringGrade (n : Nat) : Grade :=
  if n ≤ 95 then .s3 else if n ≤ 111 then .s2 else if n ≤ 127 then .s1 else .s0

/-- The Repair Engine's demand at a queue length (R87). -/
def repairGrade (n : Nat) : Grade := if n ≤ 7 then .s3 else if n ≤ 15 then .s2 else .s1

/-- The Frame Detector's demand at a count of live entries (R55). -/
def tableGrade (n : Nat) : Grade := if Config.frameCapacity ≤ n then .s0 else .s3

/-- The state of a frame (R42): TENTATIVE before its probe completes, then OPEN, CLOSED from its close. -/
def Frame.state (f : Frame) : FrameState :=
  match f.probed, f.closed with
  | none, _ => .tentative
  | some _, none => .opened
  | some _, some _ => .closed

/-- The first row of a frame's rectangle: max(0, top − Mt) (R111). -/
def Frame.firstRow (f : Frame) : Nat := f.top - f.profile.mt

/-- The frame is output: accepted, or rejected and passed (R115). -/
def Probed.isOutput (p : Probed) : Bool := !p.rejected || p.passed

/-- A FAULT or SCAN_END waits to enter the report queue (R149, R163). -/
def Scn.endWaits (c : Scn) : Bool :=
  c.due.any fun r => match r with
    | .fault _ => true
    | .scanEnd => true
    | .markReached => false

/-- The receive slot holds a record that waits for dispatch: not one whose transfer runs (R19), and not
a SOFT_RESET that waits for its reset (R177). -/
def State.slotWaits (s : State) : Bool :=
  s.lif.slot.isSome && s.cap.afe.isNone && !s.lif.resetPending

/-- The carriage stands: PARKED and not braking (R130). -/
def Trc.standing (t : Trc) : Bool := decide (t.motion = .parked) && !t.braking

end Sys2Proof.Machine
end

