-- ==== Sys2Proof/Machine/Flags.lean ====
section
/-! DEFINITION. The Notice Unit's flags: raising causes, gains, level causes and the notice slot
(section 10.7), and the changes of the operation state that the HALTED condition follows. -/

namespace Sys2Proof.Machine

/-- The identifier of a cause (R196). -/
def Cause.id : Cause → Nat
  | .linkError => 0 | .rxOverrun => 1 | .holderOut => 2 | .lineLate => 3 | .afeNack => 4
  | .endStop => 5 | .regionTableFull => 6 | .previewSkipped => 7 | .halted => 8

/-- The set that holds one cause (R195). -/
def Cause.bit (c : Cause) : CauseSet := 1#9 <<< c.id

/-- The cause belongs to the set. -/
def CauseSet.has (x : CauseSet) (c : Cause) : Bool := x &&& c.bit ≠ 0

/-- Mark the notice slot due; a slot already due stays due (R174, R190). -/
def State.noticeDue (s : State) : State := s.setLif { s.lif with noticeDue := true }

/-- Raise a cause: it becomes pending if it is not; if it is enabled, that is a gain and the notice slot
is due (R188, R190). -/
def State.raise (s : State) (c : Cause) : State :=
  if s.ntu.pending.has c then s
  else
    let s1 := s.setNtu { s.ntu with pending := s.ntu.pending ||| c.bit }
    if s.ntu.enabled.has c then s1.noticeDue else s1

/-- The HALTED condition: SCANNING, and the ring's or the Frame Table's demand is S0 (R145). -/
def State.haltedNow (s : State) : Bool :=
  decide (s.scn.op = .scanning) && (decide (s.trc.ring = .s0) || decide (s.trc.table = .s0))

/-- Evaluate the HALTED condition afresh and report its change to the Notice Unit: its beginning raises
the cause, its end leaves the pending flag (R145, R189). -/
def State.evalHalted (s : State) : State :=
  let s1 := s.setNtu { s.ntu with haltedCond := s.haltedNow }
  if s.haltedNow && !s.ntu.haltedCond then s1.raise .halted else s1

/-- Enter an operation state; HALTED is evaluated on the change (R145, R148). -/
def State.setOp (s : State) (op : OpState) : State :=
  (s.setScn { s.scn with op := op }).evalHalted

/-- The causes named in a clear whose level condition holds: they are set again (R192). -/
def State.heldLevels (s : State) (named : CauseSet) : CauseSet :=
  (if s.pins.holder then 0#9 else named &&& Cause.holderOut.bit) |||
  (if s.ntu.haltedCond then named &&& Cause.halted.bit else 0#9)

/-- Clear the named causes and set again the level causes whose condition holds; the setting of an
enabled one is a gain (R192). -/
def State.clearCauses (s : State) (named : CauseSet) : State :=
  let again := s.heldLevels named
  let s1 := s.setNtu { s.ntu with pending := (s.ntu.pending &&& ~~~named) ||| again }
  if again &&& s.ntu.enabled ≠ 0 then s1.noticeDue else s1

/-- Replace the enabled set; a newly enabled cause that is pending makes the notice slot due (R191). -/
def State.enableCauses (s : State) (set : CauseSet) : State :=
  let s1 := s.setNtu { s.ntu with enabled := set }
  if set &&& ~~~s.ntu.enabled &&& s.ntu.pending ≠ 0 then s1.noticeDue else s1

end Sys2Proof.Machine
end

