-- ==== Sys2Proof/Machine/Capture.lean ====
section
/-! DEFINITION. The Capture Unit: the lamp, line capture, flat-field correction and the arithmetic of a
calibration run (chapter 1). -/

namespace Sys2Proof.Machine

/-! ## The lamp (R16) -/

/-- Switch the lamp on: OFF enters WARMING with the timer started; WARMING and ON stay (R16). -/
def Cap.lampOn (c : Cap) : Cap :=
  if c.lamp = .off then { c with lamp := .warming, warmup := true } else c

/-- Switch the lamp off and stop the warm-up timer (R16). -/
def Cap.lampOff (c : Cap) : Cap := { c with lamp := .off, warmup := false }

/-- LAMP_EN is active in WARMING and ON (R16). -/
def Cap.lampEnabled (c : Cap) : Bool := decide (c.lamp ≠ .off)

/-! ## Line capture (R1, R2, R5) -/

/-- Start a line: line start is pulsed, the line is in flight with no pixel, the watchdog runs (R1). -/
def Cap.startLine (c : Cap) (number : Nat) : Cap :=
  { c with inFlight := some ⟨number, []⟩, watchdog := true }

/-- Start the scan line that carries the next line number, and add one to that number (R1). -/
def Cap.startScanLine (c : Cap) : Cap :=
  { c.startLine c.nextLine with nextLine := c.nextLine + 1 }

/-- End line capture where it stands: gate SHUT, the line in flight discarded, watchdog stopped (R5; R3
for a late line). -/
def Cap.endCapture (c : Cap) : Cap :=
  { c with gateOpen := false, inFlight := none, watchdog := false }

/-- Pixels arrive: those of a line in flight are taken up to the W-th, all others are discarded. The
result is the unit after the arrival and, if the W-th pixel came, the completed line (R2). -/
def Cap.takePixels (c : Cap) (w : Nat) (pixels : List Pixel) : Cap × Option Flight :=
  match c.inFlight with
  | none => (c, none)
  | some f =>
    let all := (f.received ++ pixels).take w
    if w ≤ all.length then
      ({ c with inFlight := none, watchdog := false }, some { f with received := all })
    else ({ c with inFlight := some { f with received := all } }, none)

/-! ## Flat-field correction (R6) -/

/-- One corrected sample (R6). -/
def correctSample (raw dark gain : Half) : Half :=
  half (min Config.maxHalf (((raw.toNat - dark.toNat) * gain.toNat + 2048) / 4096))

/-- One corrected pixel of a column (R6). -/
def Cap.correctPixel (c : Cap) (x : Nat) (p : Pixel) : Pixel where
  r := correctSample p.r (Table.read c.dark.r x) (Table.read c.gain.r x)
  g := correctSample p.g (Table.read c.dark.g x) (Table.read c.gain.g x)
  b := correctSample p.b (Table.read c.dark.b x) (Table.read c.gain.b x)
  ir := correctSample p.ir (Table.read c.dark.ir x) (Table.read c.gain.ir x)

/-- A line corrected from a column on (R6). -/
def Cap.correctLine (c : Cap) (x : Nat) : List Pixel → List Pixel
  | [] => []
  | p :: ps => c.correctPixel x p :: c.correctLine (x + 1) ps

/-! ## Calibration arithmetic (R9 to R12) -/

/-- The four channels of a raw line as lists of samples. -/
def channelLists (pixels : List Pixel) : PerChannel (List Nat) where
  r := pixels.map (·.r.toNat)
  g := pixels.map (·.g.toNat)
  b := pixels.map (·.b.toNat)
  ir := pixels.map (·.ir.toNat)

/-- The average of L lines, rounded half-up (R9). -/
def average (lines sum : Nat) : Nat := (sum + lines / 2) / lines

/-- The spans of a channel: white average less dark average, at least 0 (R11). -/
def spans : List Nat → List Nat → List Nat
  | w :: ws, d :: ds => (w - d) :: spans ws ds
  | _, _ => []

/-- The gain of a strong column from its own span; none for a weak column (R11). -/
def ownGain (target span : Nat) : Option Nat :=
  if Config.strongSpan ≤ span then some (min Config.maxHalf (target * 4096 / span)) else none

/-- Fill each weak column with the gain of the nearest strong column to its left; `left` is that gain at
the start. Columns with none to their left take `otherwise` (R11). -/
def fillGains (left : Option Nat) (otherwise : Nat) : List (Option Nat) → List Nat
  | [] => []
  | some g :: rest => g :: fillGains (some g) otherwise rest
  | none :: rest => left.getD otherwise :: fillGains left otherwise rest

/-- The gain of the first strong column of a list, if there is one. -/
def firstStrong : List (Option Nat) → Option Nat
  | [] => none
  | some g :: _ => some g
  | none :: rest => firstStrong rest

/-- The gains of a channel: strong columns their own, weak columns the nearest strong one's to the left,
else to the right, else 4,096 (R11). -/
def channelGains (target : Nat) (span : List Nat) : List Nat :=
  let own := span.map (ownGain target)
  fillGains none ((firstStrong own).getD Config.unityGain) own

/-- The weak columns of a channel (R11). -/
def weakCount (span : List Nat) : Nat := (span.filter fun x => x < Config.strongSpan).length

/-- A run is FAILED if any channel has more than W/16 weak columns (R12). -/
def calFailed (w : Nat) (weak : PerChannel Nat) : Bool :=
  decide (w / 16 < weak.r) || decide (w / 16 < weak.g) || decide (w / 16 < weak.b) ||
  decide (w / 16 < weak.ir)

/-- The gains and weak counts of a run whose white lines are complete (R11). -/
def CalRun.withGains (c : CalRun) : CalRun :=
  let sp := PerChannel.zip spans c.whiteAvg c.darkAvg
  { c with gains := sp.map (channelGains c.target), weak := sp.map weakCount }

/-- A new run: it begins with the move to the calibration position (R8). -/
def CalRun.start (lines target : Nat) : CalRun where
  phase := .move
  lines := lines
  target := target
  darkSums := .const []
  whiteSums := .const []
  darkAvg := .const []
  whiteAvg := .const []
  gains := .const []
  weak := .const 0

/-- Begin the dark settle: lamp OFF, a warm-up in progress cancelled (R9, R17). -/
def Cap.beginDarkSettle (c : Cap) : Cap :=
  { c.lampOff with cal := c.cal.map (fun r => { r with phase := .darkSettle }) }

/-- Begin a capture phase: its sums cleared, the line count 0, the line timer running (R9, R10). -/
def Cap.beginDarkCapture (c : Cap) : Cap :=
  { c with
    cal := c.cal.map (fun r => { r with phase := .darkCapture, darkSums := .const [] })
    calCount := 0
    calTimer := true }

/-- Begin the white capture (R10). -/
def Cap.beginWhiteCapture (c : Cap) : Cap :=
  { c with
    cal := c.cal.map (fun r => { r with phase := .whiteCapture, whiteSums := .const [] })
    calCount := 0
    calTimer := true }

/-- Begin the warm-up: the lamp is switched on (R10). A lamp already ON, which the dark phases leave no
room for, starts the white capture at once. -/
def Cap.beginWarmUp (c : Cap) : Cap :=
  let c1 : Cap := { c with cal := c.cal.map (fun r => { r with phase := .warmUp }) }
  if c.lamp = .on then c1.beginWhiteCapture else c1.lampOn

/-- End a run early: line in flight discarded, timer stopped, working storage discarded, the tables and
the flag kept; CAL_DONE with the outcome and weak counts 0 is due (R13). -/
def Cap.endRun (c : Cap) (outcome : CalOutcome) : Cap :=
  { c.endCapture with
    calTimer := false
    cal := none
    report := c.cal.map (fun r => ⟨outcome, r.lines, r.target, .const 0, c.valid⟩) }

/-- The tables written from a run's results for columns 0 to W−1 (R12). -/
def writeTables (t : PerChannel Table) (values : PerChannel (List Nat)) : PerChannel Table :=
  PerChannel.zip (fun tab vs => Table.writeFrom tab 0 (vs.map half)) t values

/-- The end of a run that has reached its Report phase: CAL_DONE enters the report queue, the dark
averages and gains are written, the flag follows the verdict, the storage is discarded (R12). -/
def Cap.writeResults (c : Cap) (r : CalRun) (passed : Bool) : Cap :=
  { c with
    dark := writeTables c.dark r.darkAvg
    gain := writeTables c.gain r.gains
    valid := passed
    calTimer := false
    cal := none }

end Sys2Proof.Machine
end

