-- ==== Sys2Proof/Machine/Transport.lean ====
section
/-! DEFINITION. The Transport Controller: position, stopping, the beginnings of moves, demands and the
resolved grade, halting and resuming (chapter 7). The step events are in MotionEvents.lean. -/

namespace Sys2Proof.Machine

/-! ## Steps and intervals -/

/-- A step in this direction may be issued: while the position is VALID, none backward from 0 and none
forward from 65,535; while it is INVALID, any (R128). -/
def Trc.canStep (t : Trc) (d : Dir) : Bool :=
  !t.valid || (match d with
    | .forward => decide (t.position.toNat < Config.maxHalf)
    | .backward => decide (0 < t.position.toNat))

/-- The position after one step; it wraps, which only an INVALID position can do (R128). -/
def stepped (p : Half) : Dir → Half
  | .forward => p + 1
  | .backward => p - 1

/-- The direction in which a position lies from another. -/
def dirTo (position target : Nat) : Dir := if position ≤ target then .forward else .backward

/-- The carriage runs at the current grade: APPROACHING or CRUISING (R129). -/
def Trc.graded (t : Trc) : Bool :=
  decide (t.motion = .approaching) || decide (t.motion = .cruising)

/-- An interval begun within a ramp step: the period of the grade being left, moved toward the next
grade's by the share of 40 ms that has elapsed, truncated (R138). -/
def rampInterval (lp : Nat) (a b : Grade) (elapsed : Nat) : Nat :=
  let pa := a.period lp
  let pb := b.period lp
  let e := min elapsed Config.rampStepMicros
  if pa ≤ pb then pa + (pb - pa) * e / Config.rampStepMicros
  else pa - (pa - pb) * e / Config.rampStepMicros

/-- The interval that begins now (R129, R138). -/
def Trc.nextInterval (t : Trc) (lp elapsed : Nat) : Nat :=
  if t.graded then
    match t.ramp with
    | some target => rampInterval lp t.current (t.current.toward target) elapsed
    | none => t.current.period lp
  else lp

/-- The braking steps of a stop ordered now: three after stepping at LP, else as the current grade says;
during a ramp step the current grade is the one being left (R130). -/
def Trc.brakeSteps (t : Trc) : Nat := if t.graded then t.current.num else 3

/-! ## Arrivals and beginnings of motion -/

/-- TRC reports a move complete: in POSITIONING the Scan Controller goes to IDLE, or, when the move was a
calibration run's, to CALIBRATING with the dark settle begun (R8, R9, R132, R133). -/
def State.moveComplete (s : State) : State :=
  if s.scn.op = .positioning then
    if s.cap.cal.isSome then (s.setCap s.cap.beginDarkSettle).setOp .calibrating
    else s.setOp .idle
  else s

/-- A MOVE or calibration move has arrived: PARKED, and the move is complete (R133). -/
def State.moveArrived (s : State) : State :=
  (s.setTrc { s.trc with motion := .parked, target := none, interval := 0 }).moveComplete

/-- Begin a move to a target; a move to the position already held arrives at once (R133). -/
def State.beginMove (s : State) (target : Nat) : State :=
  if s.trc.position.toNat = target then s.moveArrived
  else s.setTrc { s.trc with
    motion := .moving
    target := some target
    dir := dirTo s.trc.position.toNat target
    interval := s.setup.lp }

/-- Begin the homing steps: LEAVING forward while HOME is active, else SEEKING in reverse (R132). -/
def State.beginHoming (s : State) : State :=
  s.setTrc { s.trc with
    motion := .homing
    target := none
    homing := some ⟨if s.pins.home then .leaving else .seeking, 0⟩
    dir := if s.pins.home then .forward else .backward
    interval := s.setup.lp }

/-- The approach begins: the current grade is the resolved grade, with no ramp and no hold (R142). -/
def State.beginApproach (s : State) : State :=
  s.setTrc { s.trc with
    motion := .approaching
    target := some s.trc.resumePos
    current := s.trc.resolved
    ramp := none
    hold := false
    dir := .forward
    interval := s.trc.resolved.period s.setup.lp }

/-- The backtrack or run-up begins toward max(0, resume position − 48); one whose target is the position
ends at once (R141, R143). -/
def State.beginBacktrack (s : State) : State :=
  let target := s.trc.resumePos - Config.backtrackDistance
  let s1 := s.setTrc { s.trc with hold := false, holdDone := false }
  if s.trc.position.toNat = target then s1.beginApproach
  else s1.setTrc { s1.trc with
    motion := .backtracking
    target := some target
    dir := dirTo s.trc.position.toNat target
    interval := s.setup.lp }

/-! ## Stopping (R130, R131) -/

/-- The carriage stands: braking clear, PARKED, nothing of the motion left. -/
def Trc.parkedNow (t : Trc) : Trc :=
  { t with motion := .parked, braking := false, homing := none, target := none,
           brakesLeft := 0, interval := 0 }

/-- What a standing carriage does in scan transport: begin the backtrack if the hold has ended, else
start the hold, when the resolved grade is above S0 (R141). -/
def State.resumeAtRest (s : State) : State :=
  if s.trc.scanOn && s.trc.lampReady && decide (s.trc.resolved ≠ .s0) then
    if s.trc.holdDone then s.beginBacktrack
    else s.setTrc { s.trc with hold := true }
  else s

/-- The stop event: PARKED; a motion command taken during the braking begins; in scan transport the
resume goes on (R130, R141). Its report to the Scan Controller is read in `settle` (R154, R160). -/
def State.stopEvent (s : State) : State :=
  let q := s.trc.queued
  let s1 := s.setTrc { s.trc.parkedNow with queued := none }
  match q with
  | some .home => s1.beginHoming
  | some (.move target) => s1.beginMove target
  | none => s1.resumeAtRest

/-- The carriage brakes: ramp and hold stopped, target dropped, current grade S0, the first interval
twice the one it was stepping at; if no step can be issued the stop event comes at once (R130). -/
def State.brake (s : State) : State :=
  let t := s.trc
  let s1 := s.setTrc { t with
    braking := true
    ramp := none
    hold := false
    holdDone := false
    target := none
    current := .s0
    brakesLeft := t.brakeSteps
    interval := 2 * t.interval }
  if t.canStep t.dir && decide (0 < t.brakeSteps) then s1 else s1.stopEvent

/-- A HOME move that seeks acts on the HOME edge: the HOME input becoming active while it is inactive (R132; a
repeated level is no edge, log 29). -/
def State.seeksEdge (s : State) : Bool :=
  !s.pins.home && decide (s.trc.motion = .homing) && !s.trc.braking &&
  decide (s.trc.homing.map (·.phase) = some .seeking)

/-- The HOME edge of a HOME move has arrived and is not yet taken: HOME_EDGE is the next command that waits
behind the one being run (R156; log 36). -/
def State.edgeWaits (s : State) : Bool := s.seeksEdge && decide (s.pending.head? = some .homeEdge)

/-- A stop order, or the order to park: scan transport off, ramp, hold, target and any queued command (log 11)
dropped; a braking carriage brakes on, a PARKED one stands, one whose HOME edge waits stands as well (log 36),
any other brakes (R130, R144, R156). -/
def State.stopOrder (s : State) : State :=
  let s1 := s.setTrc { s.trc with
    scanOn := false
    lampReady := false
    ramp := none
    hold := false
    holdDone := false
    target := none
    queued := none }
  if s.trc.braking then s1.setTrc { s1.trc with current := .s0 }
  else if s.trc.motion = .parked then s1.setTrc { s1.trc with current := .s0 }
  else if s.edgeWaits then s1.setTrc { s1.trc.parkedNow with current := .s0 }
  else s1.brake

/-- The carriage stops at once, with no braking step (R131, R132); a queued command is dropped (log 11). -/
def State.stopAtOnce (s : State) : State :=
  s.setTrc { s.trc.parkedNow with
    ramp := none
    hold := false
    holdDone := false
    current := .s0
    queued := none }

/-! ## Demands and the resolved grade (R134 to R141) -/

/-- The scan is halted at once: gate SHUT, resume line and position taken, the carriage brakes (R136). -/
def State.halt (s : State) : State :=
  let s1 := s.setCap { s.cap with gateOpen := false }
  let s2 := s1.setTrc { s1.trc with
    resumeLine := s.cap.nextLine
    resumePos := s.setup.p0 + s.cap.nextLine }
  s2.brake

/-- A change of the resolved grade to `r` while the carriage is APPROACHING or CRUISING (R136 to R140). -/
def State.regrade (s : State) (r : Grade) : State :=
  if r = .s0 then
    if s.trc.motion = .cruising then s.halt else s.brake
  else if s.trc.ramp.isSome then s
  else if r.num < s.trc.current.num then
    s.setTrc { s.trc with hold := false, ramp := some r }
  else if s.trc.current.num < r.num then
    s.setTrc { s.trc with hold := true }
  else s.setTrc { s.trc with hold := false }

/-- A change of the resolved grade to `r` while the carriage is halted: PARKED or braking (R137, R141). -/
def State.rehold (s : State) (r : Grade) : State :=
  if r = .s0 then s.setTrc { s.trc with hold := false, holdDone := false }
  else if s.trc.lampReady && !s.trc.holdDone then s.setTrc { s.trc with hold := true }
  else s

/-- A change of the resolved grade acts on the carriage while scan transport is on (R135). -/
def State.gradeChanged (s : State) (r : Grade) : State :=
  if !s.trc.scanOn then s
  else if s.trc.braking || decide (s.trc.motion = .parked) then s.rehold r
  else if s.trc.graded then s.regrade r
  else if r = .s0 then s.brake
  else s

/-- The four sources of demands (R134). -/
inductive Source where
  | ring | repair | table | cap
deriving DecidableEq, Repr

/-- Keep the last grade posted by a source (R134). -/
def Trc.keep (t : Trc) (src : Source) (g : Grade) : Trc :=
  match src with
  | .ring => { t with ring := g }
  | .repair => { t with repair := g }
  | .table => { t with table := g }
  | .cap => { t with cap := g }

/-- A source posts a demand: the resolved grade is formed, its change acts, and HALTED is evaluated
(R135, R145). -/
def State.post (s : State) (src : Source) (g : Grade) : State :=
  let s1 := (s.setTrc (s.trc.keep src g)).evalHalted
  if s1.trc.resolved = s.trc.resolved then s1 else s1.gradeChanged s1.trc.resolved

/-- The Scan Controller reports the lamp ON: the carriage counts as halted and the hold begins if the
resolved grade is above S0 (R143). -/
def State.releaseRunUp (s : State) : State :=
  let s1 := s.setTrc { s.trc with lampReady := true }
  if s.trc.resolved = .s0 then s1 else s1.setTrc { s1.trc with hold := true }

end Sys2Proof.Machine
end

