-- ==== Sys2Proof/Machine/Ring.lean ====
section
/-! DEFINITION. The Line Ring: append, the three conditions of release, release and clearing (chapter 2). -/

namespace Sys2Proof.Machine

/-- Append a corrected line as the newest entry, mask clear and not final, and post the occupancy demand
(R22, R30). -/
def State.ringAppend (s : State) (number : Nat) (pixels : List Pixel) : State :=
  let entry : RingLine := ⟨number, pixels, List.replicate pixels.length false, false⟩
  let s1 := s.setRng ⟨s.rng.lines ++ [entry]⟩
  s1.post .ring (ringGrade s1.occupancy)

/-- The lines a frame needs (R26). -/
def Frame.needs (f : Frame) (line : Nat) : Bool :=
  match f.probed, f.closed with
  | none, _ => decide (f.firstRow ≤ line)
  | some p, none => p.isOutput && decide (p.nextRow ≤ line)
  | some p, some c => p.isOutput && decide (p.nextRow ≤ line) && decide (line ≤ c.lastRow)

/-- The window of a region, limited to the scan, contains the line (R27). -/
def Region.windowHas (u : Setup) (r : Region) (line : Nat) : Bool :=
  decide (r.first - u.d - Config.repairReach ≤ line) &&
  decide (line ≤ min (u.n - 1) (r.last + u.d + Config.repairReach))

/-- The box of a region contains the line (R90). -/
def Region.boxHas (u : Setup) (r : Region) (line : Nat) : Bool :=
  decide (r.first - u.d ≤ line) && decide (line ≤ min (u.n - 1) (r.last + u.d))

/-- The holdback allows the release of a line (R25). -/
def State.holdbackAllows (s : State) (line : Nat) : Bool :=
  decide (s.scn.op = .draining) ||
  (decide (s.scn.op = .scanning) && decide (line + Config.holdback ≤ s.newest.getD 0))

/-- All three conditions of release hold for a line (R25 to R28). -/
def State.releasable (s : State) (line : Nat) : Bool :=
  s.holdbackAllows line && s.frd.table.all (fun f => !f.needs line) &&
  s.dfd.regions.all (fun r => !r.windowHas s.setup line)

/-- The line number reported with a release: the oldest entry left, or one more than the line released
when the ring is empty (R31). -/
def firstLeft (before after : List RingLine) : Nat :=
  match after.head?, before.getLast? with
  | some l, _ => l.number
  | none, some l => l.number + 1
  | none, none => 0

/-- The entries left once the oldest ones that may go are released (R28). -/
def State.keptLines (s : State) : List RingLine :=
  s.rng.lines.dropWhile fun l => s.releasable l.number

/-- Evaluate release: oldest entries leave while the three conditions hold; the release is reported to the
Scan Controller and the demand of the occupancy reached is posted (R28, R30, R31). -/
def State.ringRelease (s : State) : State :=
  let kept := s.keptLines
  if kept.length = s.rng.lines.length then s
  else
    let s1 := s.setRng ⟨kept⟩
    let s2 := s1.setScn { s1.scn with firstHeld := firstLeft s.rng.lines kept }
    s2.post .ring (ringGrade kept.length)

/-- Clear the ring: every entry leaves, no release is reported, S3 is posted (R33). -/
def State.ringClear (s : State) : State := (s.setRng ⟨[]⟩).post .ring .s3

/-- The entry of a line, if the ring holds it. -/
def State.ringLine (s : State) (number : Nat) : Option RingLine :=
  s.rng.lines.find? fun l => l.number = number

end Sys2Proof.Machine
end

