-- ==== Sys2Proof/Machine/Frames.lean ====
section
/-! DEFINITION. The Frame Detector: judging a line, the Frame Table, probes, closes and tallies
(chapter 3). -/

namespace Sys2Proof.Machine

/-! ## Tallies (R56, R57) -/

/-- The last row of a frame's row range, once it is CLOSED (R56). -/
def Frame.takesRow (f : Frame) (line : Nat) : Bool :=
  decide (f.firstRow ≤ line) && (match f.closed with
    | some c => decide (line ≤ c.lastRow)
    | none => true)

/-- Charge the oldest frame of a table whose row range contains the line; none if no frame takes it. -/
def chargeFrames (line : Nat) (add : Tally → Tally) : List Frame → Option (List Frame)
  | [] => none
  | f :: fs =>
    if f.takesRow line then some ({ f with tally := add f.tally } :: fs)
    else (chargeFrames line add fs).map (f :: ·)

/-- Charge counts at a line to the oldest live frame that takes it, else to the outside tally (R56, R57). -/
def Frd.charge (c : Frd) (line : Nat) (add : Tally → Tally) : Frd :=
  match chargeFrames line add c.table with
  | some table => { c with table := table }
  | none => { c with outside := add c.outside }

/-- The charge of a completed repair (R56, R101). -/
def Tally.addRepaired (done left : Nat) (t : Tally) : Tally :=
  { t with repaired := t.repaired + 1, pixelsRepaired := t.pixelsRepaired + done,
           pixelsUnrepaired := t.pixelsUnrepaired + left }

/-- The charge of a region given up, or ended with repair off (R56). -/
def Tally.addUnrepairable (raw : Nat) (t : Tally) : Tally :=
  { t with unrepairable := t.unrepairable + 1, pixelsUnrepaired := t.pixelsUnrepaired + raw }

/-- One untracked run (R57). -/
def Tally.addUntracked (t : Tally) : Tally := { t with untracked := t.untracked + 1 }

/-- One coalesced line (R57). -/
def Tally.addCoalesced (t : Tally) : Tally := { t with coalesced := t.coalesced + 1 }

/-- The sum of two tallies (R45, R57). -/
def Tally.add (a b : Tally) : Tally where
  repaired := a.repaired + b.repaired
  unrepairable := a.unrepairable + b.unrepairable
  pixelsRepaired := a.pixelsRepaired + b.pixelsRepaired
  pixelsUnrepaired := a.pixelsUnrepaired + b.pixelsUnrepaired
  untracked := a.untracked + b.untracked
  coalesced := a.coalesced + b.coalesced

/-! ## Judging a line (R36, R37) -/

/-- The classes of a line (R37). -/
inductive LineClass where
  | gapLike | imageLike | neutral
deriving DecidableEq, Repr

/-- The pixels of the detect window (R36). -/
def window (u : Setup) (pixels : List Pixel) : List Pixel :=
  (pixels.drop u.wl).take (u.wr + 1 - u.wl)

/-- The mean of a channel over the window, truncated (R36). -/
def mean (u : Setup) (samples : List Nat) : Nat := samples.sum / (u.wr + 1 - u.wl)

/-- The class of a green mean against the green base (R37). -/
def classify (u : Setup) (baseG meanG : Nat) : LineClass :=
  if baseG * u.gl ≤ meanG * 256 then .gapLike
  else if meanG * 256 < baseG * u.il then .imageLike
  else .neutral

/-- A base estimate moved one eighth of the way to a mean (R40). -/
def updateBase (b m : Nat) : Nat := max 256 ((7 * b + m + 4) / 8)

/-! ## Profiles and the output rectangle (R109, R111 to R113) -/

/-- Promote the pending profile, if one waits (R109). -/
def Coe.promote (c : Coe) : Coe :=
  match c.pendingProfile with
  | some p => { c with active := p, pendingProfile := none }
  | none => c

/-- The first column and the column count of a rectangle (R112, R113). -/
def rectangle (u : Setup) (p : Profile) (left right : Nat) : Int × Nat :=
  if p.fw = 0 then
    let lo := max u.wl (left - p.mc)
    (lo, min u.wr (right + p.mc) + 1 - lo)
  else (((left + right) / 2 : Nat) - (p.fw / 2 : Nat), p.fw)

/-! ## The Frame Table (R42 to R45, R54, R55) -/

/-- Post the table-full demand of the entries now live (R55). -/
def State.postTable (s : State) : State := s.post .table (tableGrade s.frd.table.length)

/-- Create a TENTATIVE frame at the new end, with the profile promoted and a snapshot taken (R43). -/
def State.createFrame (s : State) (top : Nat) : State :=
  let s1 := s.setCoe s.coe.promote
  let frame : Frame := ⟨top, s1.coe.active, .zero, none, none⟩
  (s1.setFrd { s1.frd with table := s1.frd.table ++ [frame] }).postTable

/-- The current frame: the newest live entry, while the classifier is in IMAGE (R39). -/
def Frd.currentFrame (c : Frd) : Option Frame := c.table.getLast?

/-- Replace the newest entry. -/
def Frd.setCurrent (c : Frd) (f : Frame) : Frd := { c with table := c.table.dropLast ++ [f] }

/-- The current TENTATIVE frame is a sliver: freed without number or report, counted, its tallies added
to the outside tally, the probe sums cleared (R45). -/
def State.freeSliver (s : State) (f : Frame) : State :=
  let s1 := s.setFrd { s.frd with
    table := s.frd.table.dropLast
    probe := []
    outside := s.frd.outside.add f.tally }
  (s1.setScn { s1.scn with slivers := s1.scn.slivers + 1 }).postTable

/-- Free a frame by its number: its entry leaves the table (R54). -/
def State.freeFrame (s : State) (number : Nat) : State :=
  (s.setFrd { s.frd with
    table := s.frd.table.filter fun f => !(decide (f.probed.map (·.number) = some number)) }).postTable

/-! ## FRAME_DONE and the Frame Detector's reports (R50, R54, R121, R173) -/

/-- A frame by its number. -/
def Frd.byNumber (c : Frd) (number : Nat) : Option Frame :=
  c.table.find? fun f => decide (f.probed.map (·.number) = some number)

/-- The frame flags byte: bit 0 rejected, bit 1 passed, bit 2 edge_fallback (R195). -/
def Probed.flags (p : Probed) : Byte :=
  byte ((if p.rejected then 1 else 0) + (if p.passed then 2 else 0) + (if p.fallback then 4 else 0))

/-- A matched rule, or 0xFF for none (R195). -/
def ruleByte (rule : Option Nat) : Byte :=
  match rule with
  | some n => byte n
  | none => 0xFF#8

/-- The close reason's code (R196). -/
def CloseReason.code : CloseReason → Byte
  | .gap => 0#8 | .forced => 1#8 | .scanEnd => 2#8

/-- A tally block (R199). -/
def Tally.bytes (t : Tally) : List Byte :=
  le32 t.repaired ++ le32 t.unrepairable ++ le32 t.pixelsRepaired ++ le32 t.pixelsUnrepaired ++
  le32 t.untracked ++ le32 t.coalesced

/-- The payload of FRAME_DONE, with the tallies then standing (R121, R199). -/
def frameDonePayload (f : Frame) (p : Probed) (c : Closed) : List Byte :=
  le16 p.number ++ [c.reason.code] ++ le16 f.top ++ le16 c.bottom ++ le16 f.firstRow ++ le16 c.lastRow ++
  le16 (if p.isOutput then c.lastRow + 1 - f.firstRow else 0) ++ [p.flags, ruleByte p.rule] ++ f.tally.bytes

/-- Append a record to the report queue. -/
def State.pushReport (s : State) (r : Record) : State :=
  s.setLif { s.lif with reports := s.lif.reports ++ [r] }

/-- The FRAME_DONE of a frame by its number, formed as it enters (R121, R186); none if the frame is not
live and CLOSED. -/
def State.frameDoneRecord (s : State) (number : Nat) : Option Record :=
  match s.frd.byNumber number with
  | some f =>
    match f.probed, f.closed with
    | some p, some c => some ⟨0x42#8, 0#8, frameDonePayload f p c⟩
    | _, _ => none
  | none => none

/-- FRAME_DONE enters: the frame is freed, and the ring evaluates release (R28, R54). -/
def State.placeFrameDone (s : State) (number : Nat) : State :=
  match s.frameDoneRecord number with
  | some r => ((s.pushReport r).freeFrame number).ringRelease
  | none => s

/-- Set open reported in the frame with this number (R50). -/
def setOpenReported (number : Nat) (table : List Frame) : List Frame :=
  table.map fun f => match f.probed with
    | some p => if p.number = number then { f with probed := some { p with openReported := true } } else f
    | none => f

/-- The Frame Detector places its oldest report (R50, R54). -/
def State.placeFrd (s : State) : State :=
  match s.frd.waiting with
  | [] => s
  | .frameOpen number payload :: rest =>
    let s1 := s.pushReport ⟨0x41#8, 0#8, payload⟩
    s1.setFrd { s1.frd with waiting := rest, table := setOpenReported number s1.frd.table }
  | .frameDone number :: rest =>
    (s.setFrd { s.frd with waiting := rest }).placeFrameDone number

/-- A producer joins the tail of the wait list, unless it is already on it (R173). -/
def State.joinWaitList (s : State) (p : Producer) : State :=
  if s.lif.waitList.contains p then s
  else s.setLif { s.lif with waitList := s.lif.waitList ++ [p] }

/-- A producer offers its oldest due report: it enters at once when the queue has room and no producer waits,
else the producer waits (R173). `place` is how the producer places it. -/
def State.offerBy (s : State) (p : Producer) (place : State → State) : State :=
  if s.lif.reports.length < Config.reportCapacity ∧ s.lif.waitList = [] then place s else s.joinWaitList p

/-- The Frame Detector offers its oldest report at the moment it becomes due (R50, R54, R173). -/
def State.offerFrd (s : State) : State := s.offerBy .frd State.placeFrd

/-- Close the current OPEN frame; the FRAME_DONE of a rejected frame not passed is offered at the close, and
frees the frame as it enters (R51 to R54). -/
def State.closeFrame (s : State) (f : Frame) (p : Probed) (bottom : Nat) (reason : CloseReason) :
    State :=
  let c : Closed := ⟨bottom, reason, min (s.setup.n - 1) (bottom + f.profile.mb)⟩
  let frd := s.frd.setCurrent { f with closed := some c }
  if p.isOutput then s.setFrd frd
  else (s.setFrd { frd with waiting := frd.waiting ++ [.frameDone p.number] }).offerFrd

/-! ## Probe completion (R46 to R50) -/

/-- A column is image-like by its probe sum (R46). -/
def columnImageLike (u : Setup) (baseG sum : Nat) : Bool := sum * 256 < baseG * u.edge * 32

/-- The least index from which eight columns in a row are image-like (R46). -/
def firstEight : Nat → List Bool → Option Nat
  | _, [] => none
  | i, b :: rest =>
    if b && decide (7 ≤ rest.length) && (rest.take 7).all id then some i
    else firstEight (i + 1) rest

/-- The lateral edges, or none when no eight columns in a row are image-like (R46). -/
def edges (u : Setup) (baseG : Nat) (probe : List Nat) : Option (Nat × Nat) :=
  let cols := (List.range (u.wr + 1 - u.wl)).map fun i => columnImageLike u baseG (probe.getD i 0)
  match firstEight 0 cols, firstEight 0 cols.reverse with
  | some l, some r => some (u.wl + l, u.wr - r)
  | _, _ => none

/-- A rule matches a width (R49). -/
def FormatRule.matches (r : FormatRule) (width : Nat) : Bool :=
  r.enabled && decide (r.least ≤ width) && decide (width ≤ r.most)

/-- The lowest rule that matches (R49). -/
def FormatRules.firstMatch (r : FormatRules) (width : Nat) : Option Nat :=
  if r.r0.matches width then some 0
  else if r.r1.matches width then some 1
  else if r.r2.matches width then some 2
  else if r.r3.matches width then some 3
  else none

/-- Some rule is enabled (R49). -/
def FormatRules.anyEnabled (r : FormatRules) : Bool :=
  r.r0.enabled || r.r1.enabled || r.r2.enabled || r.r3.enabled

/-- A rule by its index (R48). -/
def FormatRules.get (r : FormatRules) : Nat → FormatRule
  | 0 => r.r0 | 1 => r.r1 | 2 => r.r2 | _ => r.r3

/-- Replace a rule whole (R48). -/
def FormatRules.set (r : FormatRules) (x : FormatRule) : Nat → FormatRules
  | 0 => { r with r0 := x } | 1 => { r with r1 := x } | 2 => { r with r2 := x } | _ => { r with r3 := x }

/-- The depth byte: the number of bits (R196). -/
def Profile.depthByte (p : Profile) : Byte := if p.eight then 8#8 else 16#8

/-- The payload of FRAME_OPEN (R50, R199). -/
def frameOpenPayload (f : Frame) (p : Probed) (baseG : Nat) : List Byte :=
  le16 p.number ++ le16 f.top ++ le16 p.left ++ le16 p.right ++ le16 (p.right + 1 - p.left) ++
  [ruleByte p.rule, p.flags] ++ le16 baseG ++ le16 f.firstRow ++ le16Signed p.firstCol ++
  le16 p.colCount ++ [flagByte f.profile.infrared, f.profile.depthByte, flagByte f.profile.mirror]

/-- What a frame holds once its probe completes (R46 to R49). -/
def probedOf (u : Setup) (c : Frd) (f : Frame) : Probed :=
  let found := edges u c.baseG c.probe
  let left := (found.map (·.1)).getD u.wl
  let right := (found.map (·.2)).getD u.wr
  let width := right + 1 - left
  let rule := c.rules.firstMatch width
  let rejected := c.rules.anyEnabled && rule.isNone
  let rect := rectangle u f.profile left right
  { number := c.nextNumber
    left := left
    right := right
    rule := rule
    rejected := rejected
    passed := rejected && u.passRejected
    fallback := found.isNone
    firstCol := rect.1
    colCount := rect.2
    nextRow := f.firstRow
    openReported := false }

/-- Complete the probe of the current frame: edges, number, format test, OPEN, FRAME_OPEN offered (R46 to
R50). -/
def State.completeProbe (s : State) (f : Frame) : State :=
  let p := probedOf s.setup s.frd f
  let frd := s.frd.setCurrent { f with probed := some p }
  let s1 := s.setFrd { frd with
    nextNumber := s.frd.nextNumber + 1
    waiting := frd.waiting ++ [.frameOpen p.number (frameOpenPayload f p s.frd.baseG)] }
  (s1.setScn { s1.scn with frames := s1.scn.frames + 1 }).offerFrd

/-! ## Handling a line: the six stages (R36) -/

/-- Stage 3 in GAP: count image-like lines; at IMAGE_MIN enter IMAGE with a new frame (R38). -/
def State.frdInGap (s : State) (n : Nat) (cls : LineClass) (greens : List Nat) : State :=
  match cls with
  | .imageLike =>
    let base := if s.frd.imageRun = 0 then [] else s.frd.probe
    let run := s.frd.imageRun + 1
    let frd := { s.frd with probe := addSums base greens, imageRun := run }
    if s.setup.imageMin ≤ run then
      (s.setFrd { frd with classifier := .image, gapRun := 0 }).createFrame
        (n + 1 - s.setup.imageMin)
    else s.setFrd frd
  | _ => s.setFrd { s.frd with imageRun := 0 }

/-- The gap run reaches GAP_MIN: enter GAP; the current frame is closed by gap or is a sliver (R39, R45,
R51). -/
def State.enterGap (s : State) (n : Nat) : State :=
  let s1 := s.setFrd { s.frd with classifier := .gap, imageRun := 0 }
  match s1.frd.currentFrame with
  | none => s1
  | some f =>
    match f.probed with
    | none => s1.freeSliver f
    | some p => if f.closed.isSome then s1 else s1.closeFrame f p (n - s.setup.gapMin) .gap

/-- Stage 3 in IMAGE: gather the probe of a TENTATIVE frame and count gap-like lines (R39, R44). -/
def State.frdInImage (s : State) (n : Nat) (cls : LineClass) (greens : List Nat) : State :=
  let probing : Bool := match s.frd.currentFrame with
    | some f => f.probed.isNone && decide (n < f.top + Config.probeLines)
    | none => false
  let probe := if probing then addSums s.frd.probe greens else s.frd.probe
  let run := if cls = .gapLike then s.frd.gapRun + 1 else 0
  let s1 := s.setFrd { s.frd with probe := probe, gapRun := run }
  if s.setup.gapMin ≤ run then s1.enterGap n else s1

/-- Stage 4: a gap-like line met in GAP updates the three bases (R40). -/
def Frd.updateBases (c : Frd) (mR mG mIR : Nat) : Frd :=
  { c with baseR := updateBase c.baseR mR, baseG := updateBase c.baseG mG,
           baseIR := updateBase c.baseIR mIR }

/-- Stage 5: complete the probe of a TENTATIVE frame whose 32nd line this is (R46). -/
def State.frdProbeStage (s : State) (n : Nat) : State :=
  match s.frd.currentFrame with
  | some f =>
    if s.frd.classifier = .image ∧ f.probed = none ∧ n + 1 = f.top + Config.probeLines then
      s.completeProbe f
    else s
  | none => s

/-- A forced close: closed at this line, and a new TENTATIVE frame from the next, the classifier staying
in IMAGE with gap run 0 (R52). -/
def State.forceClose (s : State) (f : Frame) (p : Probed) (n : Nat) : State :=
  let s1 := s.closeFrame f p n .forced
  (s1.setFrd { s1.frd with gapRun := 0, probe := [] }).createFrame (n + 1)

/-- Stage 6: the forced close, or the scan-end close, that falls due at this line (R52, R53). -/
def State.frdCloseStage (s : State) (n : Nat) : State :=
  match s.frd.classifier, s.frd.currentFrame with
  | .image, some f =>
    match f.probed with
    | none => if n + 1 = s.setup.n then s.freeSliver f else s
    | some p =>
      if f.closed.isSome then s
      else if n + 1 = s.setup.n then s.closeFrame f p n .scanEnd
      else if n + 1 = f.top + s.setup.mfl then s.forceClose f p n
      else s
  | _, _ => s

/-- The settled limit of an OPEN frame from the last line handled and the gap run (R116). -/
def settledLimit (u : Setup) (c : Frd) (f : Frame) : Nat :=
  min (u.n - 1) (c.handled - c.gapRun + f.profile.mb)

/-- The Crop Output Engine takes the line handled and the gap run: the settled limit of its OPEN output
frame (R116). -/
def State.refreshSettled (s : State) : State :=
  match s.coe.frame.bind s.frd.byNumber with
  | some f =>
    if f.closed = none then s.setCoe { s.coe with settled := settledLimit s.setup s.frd f } else s
  | none => s

/-- The Frame Detector handles line n (R36). -/
def State.frdLine (s : State) (n : Nat) (pixels : List Pixel) : State :=
  let u := s.setup
  let win := window u pixels
  let greens := win.map (·.g.toNat)
  let mG := mean u greens
  let cls := classify u s.frd.baseG mG
  let inGap := s.frd.classifier
  let s3 := match inGap with
    | .gap => s.frdInGap n cls greens
    | .image => s.frdInImage n cls greens
  let s4 := if inGap = .gap ∧ cls = .gapLike then
      s3.setFrd (s3.frd.updateBases (mean u (win.map (·.r.toNat))) mG (mean u (win.map (·.ir.toNat))))
    else s3
  let s6 := (s4.frdProbeStage n).frdCloseStage n
  (s6.setFrd { s6.frd with handled := n }).refreshSettled

/-- Clear the Frame Table at the end of a scan: the live count is given, every entry leaves, waiting
reports are dropped, the classifier returns to GAP; bases, next number and outside tally stay (R59). -/
def State.frdClear (s : State) : State :=
  let s1 := s.setScn { s.scn with abandoned := s.frd.table.length }
  let s2 := s1.setFrd { s1.frd with
    table := []
    waiting := []
    classifier := .gap
    imageRun := 0
    gapRun := 0
    probe := [] }
  let s3 := s2.setLif { s2.lif with waitList := s2.lif.waitList.filter (· ≠ .frd) }
  s3.postTable

end Sys2Proof.Machine
end

