-- ==== Sys2Proof/Machine/Defects.lean ====
section
/-! DEFINITION. The Defect Detector: infrared ratios, runs, masks and the Region Table (chapter 4), and
the joining of the Repair Queue (sections 5.2 and 5.3). -/

namespace Sys2Proof.Machine

/-! ## The infrared ratio (R62) -/

/-- The infrared ratio q of a pixel (R62). -/
def infraredRatio (k baseR baseIR r ir : Nat) : Nat :=
  let c := k * (baseR - r) / 256
  let irc := min Config.maxHalf (ir + c)
  min 1023 (irc * 256 / baseIR)

/-- A pixel is a defect when q < T (R62). -/
def isDefect (u : Setup) (baseR baseIR : Nat) (p : Pixel) : Bool :=
  infraredRatio u.k baseR baseIR p.r.toNat p.ir.toNat < u.t

/-! ## Runs (R64 to R66) -/

/-- The raw runs of the verdicts from column `x` on; `start` is where a run in progress began (R64). -/
def rawRuns (x : Nat) (start : Option Nat) : List Bool → List Run
  | [] => match start with
    | some a => [⟨a, x - 1, x - a⟩]
    | none => []
  | true :: rest => rawRuns (x + 1) (some (start.getD x)) rest
  | false :: rest => match start with
    | some a => ⟨a, x - 1, x - a⟩ :: rawRuns (x + 1) none rest
    | none => rawRuns (x + 1) none rest

/-- A run dilated by D columns on each side within the window, its raw count kept (R64). -/
def Run.dilate (u : Setup) (r : Run) : Run :=
  ⟨max u.wl (r.lo - u.d), min u.wr (r.hi + u.d), r.raw⟩

/-- Merge a run with those to its right that overlap or touch it (R65). -/
def mergeFrom (r : Run) : List Run → List Run
  | [] => [r]
  | q :: rest =>
    if q.lo ≤ r.hi + 1 then mergeFrom ⟨r.lo, max r.hi q.hi, r.raw + q.raw⟩ rest
    else r :: mergeFrom q rest

/-- Merge the dilated runs of a line (R65). -/
def mergeRuns : List Run → List Run
  | [] => []
  | r :: rest => mergeFrom r rest

/-- Join the runs beyond the 31st into one (R66). -/
def coalesce (runs : List Run) : List Run :=
  if runs.length ≤ Config.runsPerLine then runs
  else
    let tail := runs.drop (Config.runsPerLine - 1)
    runs.take (Config.runsPerLine - 1) ++
      [⟨((tail.head?).map (·.lo)).getD 0, ((tail.getLast?).map (·.hi)).getD 0, (tail.map (·.raw)).sum⟩]

/-- The runs of a line before coalescing (R62, R64, R65). -/
def lineRuns (u : Setup) (baseR baseIR : Nat) (pixels : List Pixel) : List Run :=
  mergeRuns ((rawRuns u.wl none ((window u pixels).map (isDefect u baseR baseIR))).map (Run.dilate u))

/-! ## Masks (R67 to R69) -/

/-- Enter a line's list into the history; the list of line n − 2D − 1 leaves (R67). -/
def enterHistory (u : Setup) (h : List RunList) (n : Nat) (runs : List Run) : List RunList :=
  h.filter (fun l => n ≤ l.line + 2 * u.d) ++ [⟨n, runs⟩]

/-- A column lies in a run. -/
def Run.has (r : Run) (x : Nat) : Bool := decide (r.lo ≤ x) && decide (x ≤ r.hi)

/-- The mask of line j: the union of the runs of lines max(0, j − D) to j + D that the history holds
(R68, R69). -/
def maskOf (u : Setup) (h : List RunList) (j : Nat) : List Bool :=
  let runs := (h.filter fun l => decide (j ≤ l.line + u.d) && decide (l.line ≤ j + u.d)).flatMap (·.runs)
  (List.range u.w).map fun x => runs.any (·.has x)

/-- Write the mask of line j into its ring entry and set its mask-final flag, in one step (R23, R68). -/
def writeMask (mask : List Bool) (j : Nat) (lines : List RingLine) : List RingLine :=
  lines.map fun l => if l.number = j then { l with mask := mask, final := true } else l

/-- Write the mask of line j from the history and advance the next mask line (R68). -/
def State.maskLine (s : State) (j : Nat) : State :=
  let s1 := s.setRng ⟨writeMask (maskOf s.setup s.dfd.history j) j s.rng.lines⟩
  s1.setDfd { s1.dfd with nextMask := j + 1 }

/-! ## The Region Table (R71 to R78) -/

/-- The smallest interval containing two (R75). -/
def Span.join (a b : Span) : Span := ⟨min a.lo b.lo, max a.hi b.hi⟩

/-- Widen a gathered span, which may be absent, by an interval (R74). -/
def gather (g : Option Span) (x : Span) : Option Span :=
  match g with
  | some y => some (y.join x)
  | none => some x

/-- The lowest empty slot (R71). -/
def firstFree (regions : List Region) : Option Nat :=
  (List.range Config.regionCapacity).find? fun i => regions.all fun r => r.slot ≠ i

/-- Put a region into its slot, keeping the order of the slots. -/
def putRegion (r : Region) : List Region → List Region
  | [] => [r]
  | q :: rest =>
    if q.slot < r.slot then q :: putRegion r rest
    else if q.slot = r.slot then r :: rest
    else r :: q :: rest

/-- Empty a slot. -/
def dropSlot (slot : Nat) (regions : List Region) : List Region :=
  regions.filter fun r => r.slot ≠ slot

/-- A test span of stage 3: the last-line span of an OPEN region, widened by one column on each side by
the test itself, and the slot that it counts for (R72). -/
structure TestSpan where
  span : Span
  slot : Nat
deriving DecidableEq, Repr

/-- A run overlaps a test span: a ≤ t + 1 and b ≥ s − 1 (R72). -/
def TestSpan.meets (t : TestSpan) (r : Run) : Bool :=
  decide (r.lo ≤ t.span.hi + 1) && decide (t.span.lo ≤ r.hi + 1)

/-- The test spans of the regions that are OPEN (R72). -/
def testSpans (regions : List Region) : List TestSpan :=
  regions.filterMap fun r =>
    if r.state = .opened then r.lastSpan.map fun sp => ⟨sp, r.slot⟩ else none

/-- The live tested regions that a run overlaps, in slot order, each once (R72). -/
def metRegions (regions : List Region) (tests : List TestSpan) (run : Run) : List Region :=
  regions.filter fun r => tests.any fun t => t.slot = r.slot && t.meets run

/-- A new region of a run (R73). -/
def Region.fresh (slot n : Nat) (run : Run) : Region where
  slot := slot
  state := .opened
  first := n
  last := n
  cols := ⟨run.lo, run.hi⟩
  lastSpan := none
  gathered := some ⟨run.lo, run.hi⟩
  raw := run.raw
  repaired := none
  unrepaired := none

/-- A region that a run joins (R74). -/
def Region.joined (r : Region) (n : Nat) (run : Run) : Region :=
  { r with
    last := n
    cols := r.cols.join ⟨run.lo, run.hi⟩
    gathered := gather r.gathered ⟨run.lo, run.hi⟩
    raw := r.raw + run.raw }

/-- The region that survives a merge: the lowest first raw line, then the lowest slot (R75). -/
def survivor (r : Region) (others : List Region) : Region :=
  others.foldl (fun best q => if q.first < best.first then q else best) r

/-- Take another region into a survivor (R75). -/
def Region.absorb (r q : Region) : Region :=
  { r with
    cols := r.cols.join q.cols
    gathered := match q.gathered with
      | some g => gather r.gathered g
      | none => r.gathered
    raw := r.raw + q.raw }

/-- A region ends: it is charged and its slot emptied, in one step (R82). The ring and the Crop Output
Engine see the end when they are next evaluated in the same row. -/
def State.endRegion (s : State) (r : Region) (add : Tally → Tally) : State :=
  let s1 := s.setFrd (s.frd.charge r.first add)
  s1.setDfd { s1.dfd with regions := dropSlot r.slot s1.dfd.regions }

/-- Put a region back after a run of line n; one taller than 64 raw lines ends at once as UNREPAIRABLE,
and its test spans go with it (R74 to R76). -/
def State.keepRegion (s : State) (tests : List TestSpan) (r : Region) : State × List TestSpan :=
  if Config.maxRegionHeight < r.last + 1 - r.first then
    (s.endRegion r (Tally.addUnrepairable r.raw), tests.filter fun t => t.slot ≠ r.slot)
  else (s.setDfd { s.dfd with regions := putRegion r s.dfd.regions }, tests)

/-- Stage 3 for one run of line n: it creates a region or is left untracked (R73, R77), joins one (R74),
or merges several (R75). -/
def State.trackRun (n : Nat) (acc : State × List TestSpan) (run : Run) : State × List TestSpan :=
  let s := acc.1
  let tests := acc.2
  match metRegions s.dfd.regions tests run with
  | [] =>
    match firstFree s.dfd.regions with
    | some slot =>
      (s.setDfd { s.dfd with regions := putRegion (Region.fresh slot n run) s.dfd.regions }, tests)
    | none => ((s.setFrd (s.frd.charge n Tally.addUntracked)).raise .regionTableFull, tests)
  | [r] => s.keepRegion tests (r.joined n run)
  | r :: rest =>
    let all := r :: rest
    let main := survivor r rest
    let others := all.filter fun q => q.slot ≠ main.slot
    let merged := (others.foldl Region.absorb main).joined n run
    let regions := s.dfd.regions.filter fun q => others.all fun o => o.slot ≠ q.slot
    let moved := tests.map fun t =>
      if others.any fun o => o.slot = t.slot then { t with slot := main.slot } else t
    (s.setDfd { s.dfd with regions := regions }).keepRegion moved merged

/-- Stage 4 for one region: an OPEN region with no run on the line becomes CLOSING, one with runs takes
its gathered span as last-line span (R78). -/
def Region.settleLine (r : Region) : Region :=
  if r.state = .opened then
    match r.gathered with
    | some g => { r with lastSpan := some g, gathered := none }
    | none => { r with state := .closing, lastSpan := none }
  else r

/-! ## READY and the Repair Queue (R79, R80, R86 to R88) -/

/-- Insert a region by first raw line, keeping the slot order among equals. -/
def insertByFirst (r : Region) : List Region → List Region
  | [] => [r]
  | q :: rest => if r.first < q.first then r :: q :: rest else q :: insertByFirst r rest

/-- Regions in increasing order of first raw line and then of slot (R79). The list given is in slot
order. -/
def byFirst (regions : List Region) : List Region :=
  regions.foldl (fun acc r => insertByFirst r acc) []

/-- Set the state of the region in a slot to one that follows OPEN: the last-line span is dropped (R71, R79,
R80). -/
def setRegionState (slot : Nat) (st : RegionState) (regions : List Region) : List Region :=
  regions.map fun r => if r.slot = slot then { r with state := st, lastSpan := none } else r

/-- The IDLE engine takes the head of the queue: the entry becomes REPAIRING, the counts are cleared, box
and window are fixed (R88). -/
def State.repairTake (s : State) : State :=
  match s.rpe.current, s.rpe.queue with
  | none, slot :: rest =>
    match s.dfd.regions.find? (fun r => r.slot = slot) with
    | some r =>
      let s1 := s.setDfd { s.dfd with regions := setRegionState slot .repairing s.dfd.regions }
      s1.setRpe ⟨rest, some ⟨slot, r.first, r.last, r.cols⟩, 0, 0⟩
    | none => s.setRpe { s.rpe with queue := rest }
  | _, _ => s

/-- Post the Repair Engine's demand (R87). -/
def State.postRepair (s : State) : State := s.post .repair (repairGrade s.rpe.queue.length)

/-- One region becomes READY: with repair on it joins the queue, and an IDLE engine takes the head; with
repair off it ends at once (R79, R88, R102). -/
def State.makeReady (s : State) (r : Region) : State :=
  if s.setup.repair then
    let s1 := s.setDfd { s.dfd with regions := setRegionState r.slot .ready s.dfd.regions }
    (s1.setRpe { s1.rpe with queue := s1.rpe.queue ++ [r.slot] }).repairTake
  else s.endRegion r (Tally.addUnrepairable r.raw)

/-- Make regions READY in the order of R79, then post one demand for the length at the end (R79, R87). -/
def State.makeAllReady (s : State) (regions : List Region) : State :=
  ((byFirst regions).foldl State.makeReady s).postRepair

/-! ## Handling a line: the seven stages (R61) -/

/-- Stage 2: the run list of line n, coalesced and charged if it was, entered into the history (R64 to
R67). The result is the state and the runs. -/
def State.dfdRuns (s : State) (n baseR baseIR : Nat) (pixels : List Pixel) : State × List Run :=
  let found := lineRuns s.setup baseR baseIR pixels
  let runs := coalesce found
  let s1 := if Config.runsPerLine < found.length then
      s.setFrd (s.frd.charge n Tally.addCoalesced) else s
  (s1.setDfd { s1.dfd with history := enterHistory s.setup s1.dfd.history n runs }, runs)

/-- Stage 7 on the scan's last line: the masks not yet written, the history discarded, every OPEN or
CLOSING region READY (R69, R80). -/
def State.dfdLast (s : State) (n : Nat) : State :=
  let due := (List.range (n + 1 - s.dfd.nextMask)).map (s.dfd.nextMask + ·)
  let s1 := due.foldl State.maskLine s
  let s2 := s1.setDfd { s1.dfd with history := [] }
  s2.makeAllReady (s2.dfd.regions.filter fun r =>
    decide (r.state = .opened) || decide (r.state = .closing))

/-- The Defect Detector handles line n with the bases that held before the line's own update (R61). -/
def State.dfdLine (s : State) (n baseR baseIR : Nat) (pixels : List Pixel) : State :=
  let u := s.setup
  let s2 := s.dfdRuns n baseR baseIR pixels
  let s3 := (s2.2.foldl (State.trackRun n) (s2.1, testSpans s2.1.dfd.regions)).1
  let s4 := s3.setDfd { s3.dfd with regions := s3.dfd.regions.map Region.settleLine }
  let s5 := if u.d ≤ n then s4.maskLine (n - u.d) else s4
  let s6 := s5.makeAllReady (s5.dfd.regions.filter fun r =>
    decide (r.state = .closing) && decide (r.last + 2 * u.d + Config.repairReach = n))
  if n + 1 = u.n then s6.dfdLast n else s6

/-- Clear the Region Table and the run history at the end of a scan (R83). -/
def State.dfdClear (s : State) : State := s.setDfd { s.dfd with history := [], regions := [] }

/-- Clear the Repair Queue and drop the region under repair; S3 is posted (R104). -/
def State.rpeClear (s : State) : State := (s.setRpe ⟨[], none, 0, 0⟩).post .repair .s3

end Sys2Proof.Machine
end

