-- ==== Sys2Proof/Machine/Repair.lean ====
section
/-! DEFINITION. The Repair Engine: neighbours, interpolation and the end of a repair (chapter 5). -/

namespace Sys2Proof.Machine

/-- The mask flag of a column of a line is clear. A line that is not present has no clear flag. -/
def clearAt (line : Option RingLine) (x : Nat) : Bool :=
  match line with
  | some l => !l.mask.getD x true
  | none => false

/-- The least distance from 1 to 16 that satisfies a condition (R92, R93). -/
def nearest (p : Nat → Bool) : Option Nat :=
  ((List.range Config.repairReach).map (· + 1)).find? p

/-- The distances of the neighbours of a masked pixel in the four directions (R92, R93). -/
structure Neighbours where
  left : Option Nat
  right : Option Nat
  up : Option Nat
  down : Option Nat
deriving DecidableEq, Repr

/-- A ring line by its number, among the lines given. -/
def lineAt (lines : List RingLine) (y : Nat) : Option RingLine := lines.find? fun l => l.number = y

/-- The neighbours of the masked pixel at column x of line y, for the region under repair (R92, R93). -/
def neighbours (u : Setup) (e : Repairing) (lines : List RingLine) (x y : Nat) : Neighbours where
  left := nearest fun d => decide (u.wl + d ≤ x) && clearAt (lineAt lines y) (x - d)
  right := nearest fun d => decide (x + d ≤ u.wr) && clearAt (lineAt lines y) (x + d)
  up := nearest fun d => decide (d ≤ y) &&
    decide (e.first - u.d - Config.repairReach ≤ y - d) && clearAt (lineAt lines (y - d)) x
  down := nearest fun d =>
    decide (y + d ≤ min (u.n - 1) (e.last + u.d + Config.repairReach)) && clearAt (lineAt lines (y + d)) x

/-- The straight-line estimate between two neighbour values, rounded half-up (R94). -/
def estimate (v1 d1 v2 d2 : Nat) : Nat := (v1 * d2 + v2 * d1 + (d1 + d2) / 2) / (d1 + d2)

/-- The combination of both estimates, each weighted by the other pair's span (R95). -/
def combine (h sH v sV : Nat) : Nat := (h * sV + v * sH + (sH + sV) / 2) / (sH + sV)

/-- The nearest neighbour: the smallest distance, and among equals the first of left, right, up, down
(R96). Distances carry a position 0 to 3 in that order. -/
def nearestOf (nb : Neighbours) : Option (Nat × Nat) :=
  let found := [nb.left.map (0, ·), nb.right.map (1, ·), nb.up.map (2, ·), nb.down.map (3, ·)].filterMap id
  match found with
  | [] => none
  | x :: rest => some (rest.foldl (fun best y => if y.2 < best.2 then y else best) x)

/-- The new sample of a masked pixel in one channel; none when it has no neighbour (R95 to R97).
The four functions read the neighbour at a distance in that direction, in that channel. -/
def newSample (nb : Neighbours) (leftOf rightOf upOf downOf : Nat → Nat) : Option Nat :=
  let h := match nb.left, nb.right with
    | some l, some r => some (estimate (leftOf l) l (rightOf r) r, l + r)
    | _, _ => none
  let v := match nb.up, nb.down with
    | some a, some b => some (estimate (upOf a) a (downOf b) b, a + b)
    | _, _ => none
  match h, v with
  | some (hv, sH), some (vv, sV) => some (combine hv sH vv sV)
  | some (hv, _), none => some hv
  | none, some (vv, _) => some vv
  | none, none => (nearestOf nb).map fun (i, d) =>
      if i = 0 then leftOf d else if i = 1 then rightOf d else if i = 2 then upOf d else downOf d

/-- The sample of one channel at column x of line y, as it stands in the ring. -/
def sampleAt (lines : List RingLine) (chan : Pixel → Half) (x y : Nat) : Nat :=
  (((lineAt lines y).bind fun l => l.pixels[x]?).map fun p => (chan p).toNat).getD 0

/-- The repaired sample of one channel (R94 to R98). -/
def repairedSample (lines : List RingLine) (nb : Neighbours) (chan : Pixel → Half) (x y : Nat) :
    Option Nat :=
  newSample nb (fun d => sampleAt lines chan (x - d) y) (fun d => sampleAt lines chan (x + d) y)
    (fun d => sampleAt lines chan x (y - d)) (fun d => sampleAt lines chan x (y + d))

/-- A masked pixel after its repair: new R, G and B, the IR sample kept; unchanged when it has no
neighbour (R95, R97, R98). -/
def repairPixel (u : Setup) (e : Repairing) (lines : List RingLine) (y x : Nat) (p : Pixel) : Pixel :=
  let nb := neighbours u e lines x y
  match repairedSample lines nb (·.r) x y, repairedSample lines nb (·.g) x y,
      repairedSample lines nb (·.b) x y with
  | some r, some g, some b => ⟨half r, half g, half b, p.ir⟩
  | _, _, _ => p

/-- The pixel at a column lies in the box of the region under repair, on a line of the box, and is
masked: it is one of the pixels repaired (R91). -/
def Repairing.visits (e : Repairing) (l : RingLine) (x : Nat) : Bool :=
  decide (e.cols.lo ≤ x) && decide (x ≤ e.cols.hi) && l.mask.getD x false

/-- The lines of the box (R90). -/
def Repairing.boxHas (u : Setup) (e : Repairing) (y : Nat) : Bool :=
  decide (e.first - u.d ≤ y) && decide (y ≤ min (u.n - 1) (e.last + u.d))

/-- A line of the box with its masked pixels repaired, from column x on; every neighbour is read from the
lines as they stood, which are the clean samples (R98). -/
def repairLine (u : Setup) (e : Repairing) (lines : List RingLine) (l : RingLine) (x : Nat) :
    List Pixel → List Pixel
  | [] => []
  | p :: ps =>
    (if e.visits l x then repairPixel u e lines l.number x p else p) ::
      repairLine u e lines l (x + 1) ps

/-- The ring lines after the repair of a region (R91, R98). -/
def repairRing (u : Setup) (e : Repairing) (lines : List RingLine) : List RingLine :=
  lines.map fun l =>
    if e.boxHas u l.number then { l with pixels := repairLine u e lines l 0 l.pixels } else l

/-- A masked pixel has a neighbour in some direction (R97). -/
def Neighbours.present (nb : Neighbours) : Bool :=
  nb.left.isSome || nb.right.isSome || nb.up.isSome || nb.down.isSome

/-- The repaired and unrepaired counts of a region's repair (R99). -/
def repairCounts (u : Setup) (e : Repairing) (lines : List RingLine) : Nat × Nat :=
  let masked := (lines.filter fun l => e.boxHas u l.number).flatMap fun l =>
    ((List.range l.pixels.length).filter (e.visits l)).map fun x => neighbours u e lines x l.number
  ((masked.filter Neighbours.present).length, (masked.filter fun nb => !nb.present).length)

/-- Write the counts of a completed repair into the entry of a slot (R81). -/
def setRegionCounts (slot done left : Nat) (regions : List Region) : List Region :=
  regions.map fun r => if r.slot = slot then { r with repaired := some done, unrepaired := some left } else r

/-- The repair in progress completes: the samples are written, the counts enter the region's entry, which ends
and is charged in the same step, the engine is IDLE and takes the next head (R81, R82, R88, R99 to R101). -/
def State.finishRepair (s : State) (e : Repairing) : State :=
  let counts := repairCounts s.setup e s.rng.lines
  let s1 := s.setRng ⟨repairRing s.setup e s.rng.lines⟩
  let s2 := s1.setDfd { s1.dfd with regions := setRegionCounts e.slot counts.1 counts.2 s1.dfd.regions }
  let s3 := match s2.dfd.regions.find? (fun r => r.slot = e.slot) with
    | some r => s2.endRegion r (Tally.addRepaired counts.1 counts.2)
    | none => s2
  let s4 := s3.setRpe { s3.rpe with current := none, repaired := counts.1, unrepaired := counts.2 }
  (s4.repairTake.postRepair).ringRelease

end Sys2Proof.Machine
end

