-- ==== Sys2Proof/Machine/Output.lean ====
section
/-! DEFINITION. The Crop Output Engine: frames in output order, eligible rows, IMAGE records, and the
Preview Reducer (chapter 6). -/

namespace Sys2Proof.Machine

/-! ## Samples and columns -/

/-- A sample at 8 bits: divided by 256 rounded half-up, at most 255 (R119). -/
def toEight (v : Nat) : Nat := min 255 ((v + 128) / 256)

/-- A sample as the frame's depth sends it (R119, R200). -/
def sampleBytes (p : Profile) (v : Nat) : List Byte :=
  if p.eight then [byte (toEight v)] else le16 v

/-- The sensor column of an output column, mirrored if the profile says so (R114). -/
def sensorColumn (f : Frame) (p : Probed) (j : Nat) : Int :=
  if f.profile.mirror then p.firstCol + p.colCount - 1 - j else p.firstCol + j

/-- The bytes of one output pixel: the ring's samples for a source column, the fill value in every channel
for a column outside the detect window (R113, R119, R200). -/
def pixelBytes (u : Setup) (f : Frame) (p : Probed) (l : RingLine) (j : Nat) : List Byte :=
  let c := sensorColumn f p j
  let px : Pixel :=
    if (u.wl : Int) ≤ c ∧ c ≤ (u.wr : Int) then l.pixels.getD c.toNat ⟨0, 0, 0, 0⟩
    else ⟨half f.profile.fill, half f.profile.fill, half f.profile.fill, half f.profile.fill⟩
  sampleBytes f.profile px.r.toNat ++ sampleBytes f.profile px.g.toNat ++
  sampleBytes f.profile px.b.toNat ++
  (if f.profile.infrared then sampleBytes f.profile px.ir.toNat else [])

/-- Pixels in a full IMAGE record (R118). -/
def segmentSize (p : Profile) : Nat := if p.infrared && !p.eight then 255 else 256

/-! ## Frames in output order (R115 to R117, R120) -/

/-- The frame is an output frame: past its probe, and accepted or passed (R115). -/
def Frame.isOutput (f : Frame) : Bool :=
  match f.probed with
  | some p => p.isOutput
  | none => false

/-- Row r lies within the frame as far as is known (R116). -/
def rowWithin (c : Coe) (f : Frame) (r : Nat) : Bool :=
  match f.closed with
  | some x => decide (r ≤ x.lastRow)
  | none => decide (r ≤ c.settled)

/-- The entry of a line is present and mask-final (R116). -/
def State.lineFinal (s : State) (r : Nat) : Bool :=
  match s.ringLine r with
  | some l => l.final
  | none => false

/-- Row r of the output frame is eligible (R116). -/
def State.rowEligible (s : State) (f : Frame) (p : Probed) (r : Nat) : Bool :=
  p.openReported && s.lineFinal r && s.dfd.regions.all (fun g => !g.boxHas s.setup r) &&
  rowWithin s.coe f r

/-- The output frame is CLOSED and its next row has passed its last row (R120). -/
def rowsDone (f : Frame) (p : Probed) : Bool :=
  match f.closed with
  | some x => decide (x.lastRow < p.nextRow)
  | none => false

/-- The next step of the Crop Output Engine that the state allows: IDLE takes the lowest-numbered output
frame; WAITING goes to CLOSING or SENDING (R115, R117, R120). -/
def State.coeAdvance (s : State) : Option State :=
  match s.coe.step with
  | .idle =>
    match s.frd.table.find? Frame.isOutput with
    | some f => some ((s.setCoe { s.coe with
        step := .waiting
        frame := f.probed.map (·.number)
        segOffset := 0 }).refreshSettled)
    | none => none
  | .waiting =>
    match s.coe.frame.bind s.frd.byNumber with
    | some f =>
      match f.probed with
      | some p =>
        if rowsDone f p then some (s.setCoe { s.coe with step := .closing })
        else if s.rowEligible f p p.nextRow then some (s.setCoe { s.coe with step := .sending })
        else none
      | none => none
    | none => none
  | .sending => none
  | .closing => none

/-! ## IMAGE records (R118, R199, R200) -/

/-- The payload of the IMAGE record of a row's segment (R199, R200). -/
def imagePayload (u : Setup) (f : Frame) (p : Probed) (l : RingLine) (offset count : Nat) : List Byte :=
  le16 p.number ++ le16 p.nextRow ++ le16 offset ++ le16 count ++
  (List.range count).flatMap fun i => pixelBytes u f p l (offset + i)

/-- The pixels of the record that starts at an output column (R118). -/
def segmentCount (f : Frame) (p : Probed) (offset : Nat) : Nat :=
  min (segmentSize f.profile) (p.colCount - offset)

/-- Raise the next row of a frame by one (R118). -/
def raiseNextRow (number : Nat) (table : List Frame) : List Frame :=
  table.map fun f => match f.probed with
    | some p => if p.number = number then { f with probed := some { p with nextRow := p.nextRow + 1 } } else f
    | none => f

/-- The IMAGE record that the Crop Output Engine presents, if it presents one, with the state once the
arbiter has taken it: the offset advances, or the row is sent, the next row rises, release is evaluated
and the engine waits (R118). -/
def State.takeImage (s : State) : Option (Record × State) :=
  if s.coe.step ≠ .sending then none
  else
    match s.coe.frame.bind s.frd.byNumber with
    | some f =>
      match f.probed with
      | some p =>
        let line := (s.ringLine p.nextRow).getD ⟨p.nextRow, [], [], true⟩
        let count := segmentCount f p s.coe.segOffset
        let record : Record := ⟨0x50#8, 0#8, imagePayload s.setup f p line s.coe.segOffset count⟩
        if s.coe.segOffset + count < p.colCount then
          some (record, s.setCoe { s.coe with segOffset := s.coe.segOffset + count })
        else
          let s1 := s.setCoe { s.coe with segOffset := 0, step := .waiting }
          let s2 := s1.setFrd { s1.frd with table := raiseNextRow p.number s1.frd.table }
          some (record, s2.ringRelease)
      | none => none
    | none => none

/-! ## The Preview Reducer (R122 to R125) -/

/-- Add a line's samples into the boxes, eight columns to a box (R122). -/
def addBoxes (boxes : List BoxSum) (pixels : List Pixel) (count : Nat) : List BoxSum :=
  (List.range count).map fun i =>
    let old := boxes.getD i ⟨0, 0, 0⟩
    let cols := (pixels.drop (8 * i)).take 8
    ⟨old.r + (cols.map (·.r.toNat)).sum, old.g + (cols.map (·.g.toNat)).sum,
      old.b + (cols.map (·.b.toNat)).sum⟩

/-- A preview sample from the sum over a number of samples (R123, R125). -/
def previewSample (sum samples : Nat) : Byte := byte (toEight ((sum + samples / 2) / samples))

/-- A preview row from the boxes, of a number of lines (R123, R125). -/
def previewRow (index lines : Nat) (boxes : List BoxSum) : PreviewRow :=
  ⟨index, boxes.map fun b => (previewSample b.r (8 * lines), previewSample b.g (8 * lines),
    previewSample b.b (8 * lines))⟩

/-- A preview row is complete: it joins the queue, or is dropped with PREVIEW_SKIPPED; the sums and the
count are cleared and the index rises (R123). -/
def State.completePreviewRow (s : State) : State :=
  let c := s.coe
  let row := previewRow c.rowIndex c.lineCount c.boxes
  let next := { c with boxes := [], lineCount := 0, rowIndex := c.rowIndex + 1 }
  if c.rows.length < Config.previewCapacity then s.setCoe { next with rows := c.rows ++ [row] }
  else (s.setCoe next).raise .previewSkipped

/-- The reducer takes an offered line (R122, R123). -/
def State.previewLine (s : State) (pixels : List Pixel) : State :=
  if s.coe.preview then
    let c := s.coe
    let s1 := s.setCoe { c with
      boxes := addBoxes c.boxes pixels (s.setup.w / 8)
      lineCount := c.lineCount + 1 }
    if 8 ≤ s1.coe.lineCount then s1.completePreviewRow else s1
  else s

/-- The reducer settles the preview tail on the entry into DRAINING: a partial row from 1 to 7 lines, or
preview done at once with the option off (R122, R125). -/
def State.previewTail (s : State) : State :=
  if s.coe.preview then
    if 0 < s.coe.lineCount then s.completePreviewRow else s
  else s.setCoe { s.coe with previewDone := true }

/-- Pixels in a full PREVIEW record (R124). -/
def previewSegment : Nat := 512

/-- The PREVIEW record that the reducer presents, if its queue holds a row, with the state once the
arbiter has taken it (R124, R199, R200). -/
def State.takePreview (s : State) : Option (Record × State) :=
  match s.coe.rows with
  | [] => none
  | row :: rest =>
    let width := row.pixels.length
    let offset := s.coe.previewOffset
    let count := min previewSegment (width - offset)
    let body := ((row.pixels.drop offset).take count).flatMap fun (r, g, b) => [r, g, b]
    let record : Record :=
      ⟨0x51#8, 0#8, le16 row.index ++ le16 width ++ le16 offset ++ le16 count ++ body⟩
    if offset + count < width then
      some (record, s.setCoe { s.coe with previewOffset := offset + count })
    else some (record, s.setCoe { s.coe with rows := rest, previewOffset := 0 })

/-- Clear the output and the preview at the end of a scan: pending slot and active profile stay, preview
done is set, a waiting FRAME_DONE is dropped (R126). DESIGN CHOICE: R126 does not say what the settled limit and
the preview offset become here; both are set to 0, as at a reset (R127; log 34). -/
def State.coeClear (s : State) : State :=
  let s1 := s.setCoe { s.coe with
    step := .idle
    frame := none
    segOffset := 0
    settled := 0
    boxes := []
    lineCount := 0
    rowIndex := 0
    rows := []
    previewOffset := 0
    previewDone := true }
  s1.setLif { s1.lif with waitList := s1.lif.waitList.filter (· ≠ .coe) }

end Sys2Proof.Machine
end

