-- ==== Sys2Proof/Machine/Reports.lean ====
section
/-! DEFINITION. Reports and their producers: what each producer has waiting, how a report enters the
report queue and what follows from it, the wait list, and the settling of the device within one row
(sections 8.3 to 8.7, 9.5, 10.6). -/

namespace Sys2Proof.Machine

/-! ## Codes (R196) -/

/-- The code of an operation state. -/
def OpState.code : OpState → Byte
  | .idle => 0#8 | .positioning => 1#8 | .calibrating => 2#8 | .preparing => 3#8
  | .scanning => 4#8 | .draining => 5#8 | .stopping => 6#8 | .faulted => 7#8

/-- The code of a fault kind; 0 is none. -/
def faultCode : Option FaultKind → Byte
  | none => 0#8 | some .lineLate => 1#8 | some .endStop => 2#8 | some .homeFailed => 3#8

/-- The code of an end reason. -/
def EndReason.code : EndReason → Byte
  | .complete => 0#8 | .aborted => 1#8 | .holder => 2#8 | .fault => 3#8

/-- The code of a CAL_DONE outcome. -/
def CalOutcome.code : CalOutcome → Byte
  | .passed => 0#8 | .failed => 1#8 | .aborted => 2#8 | .late => 3#8

/-- A line number that may be absent: 0xFFFF for none (R195). -/
def lineField (line : Option Nat) : List Byte := le16 (line.getD 0xFFFF)

/-! ## Report payloads (R199) -/

/-- CAL_DONE. -/
def CalReport.record (r : CalReport) : Record :=
  ⟨0x44#8, 0#8, [r.outcome.code, byte r.lines] ++ le16 r.target ++ le16 r.weak.r ++ le16 r.weak.g ++
    le16 r.weak.b ++ le16 r.weak.ir ++ [flagByte r.valid]⟩

/-- MARK_REACHED (R162). -/
def Marker.record (m : Marker) : Record :=
  ⟨0x43#8, 0#8, le16 m.value.toNat ++ lineField m.line ++ [flagByte m.aborted]⟩

/-- The line number of a FAULT formed now: the late line for LINE_LATE, the next line number for END_STOP in a
scan, 0 outside a scan (R164). -/
def State.faultLine (s : State) (f : FaultReport) : Nat :=
  match f.kind with
  | .lineLate => f.line
  | .endStop => if f.op = .positioning then 0 else s.cap.nextLine
  | .homeFailed => 0

/-- FAULT, formed from the values then standing (R164, R186; log 10). -/
def State.faultRecord (s : State) (f : FaultReport) : Record :=
  ⟨0x45#8, 0#8, [faultCode (some f.kind), f.op.code] ++ le16 (s.faultLine f) ++ le16 s.trc.position.toNat ++
    [flagByte s.trc.valid]⟩

/-- SCAN_END, formed from the values then standing (R164). -/
def State.scanEndRecord (s : State) : Record :=
  let c := s.scn
  ⟨0x46#8, 0#8, [(c.endReason.getD .complete).code, faultCode c.endFault] ++ le16 c.setup.n ++
    le16 c.captured ++ le16 c.frames ++ le16 c.slivers ++ le16 c.reseeks ++ [byte c.abandoned] ++
    s.frd.outside.bytes⟩

/-! ## Producers (R172) -/

/-- The producer has a report that is due and not yet placed. -/
def State.hasReport (s : State) : Producer → Bool
  | .cap => s.cap.report.isSome
  | .frd => !s.frd.waiting.isEmpty
  | .coe => decide (s.coe.step = .closing)
  | .scn => !s.scn.due.isEmpty

/-- The Capture Unit places CAL_DONE; for PASSED and FAILED the tables and the flag are written at that
moment and the Scan Controller returns to IDLE (R12, R13). -/
def State.placeCal (s : State) : State :=
  match s.cap.report with
  | none => s
  | some r =>
    let s1 := (s.pushReport r.record).setCap { s.cap with report := none }
    match s.cap.cal with
    | some run =>
      if r.outcome = .passed ∨ r.outcome = .failed then
        (s1.setCap (s1.cap.writeResults run (decide (r.outcome = .passed)))).setOp .idle
      else s1
    | none => s1

/-- The Crop Output Engine places the FRAME_DONE of its output frame and goes to IDLE (R120). -/
def State.placeCoe (s : State) : State :=
  match s.coe.frame with
  | some number =>
    (s.setCoe { s.coe with step := .idle, frame := none, segOffset := 0 }).placeFrameDone number
  | none => s.setCoe { s.coe with step := .idle }

/-- The Scan Controller places its oldest report: MARK_REACHED removes the head marker, SCAN_END ends a
drain (R154, R162, R163). -/
def State.placeScn (s : State) : State :=
  match s.scn.due with
  | [] => s
  | .markReached :: rest =>
    match s.scn.markers with
    | m :: ms => (s.pushReport m.record).setScn { s.scn with due := rest, markers := ms }
    | [] => s.setScn { s.scn with due := rest }
  | .fault f :: rest => (s.pushReport (s.faultRecord f)).setScn { s.scn with due := rest }
  | .scanEnd :: rest =>
    let s1 := (s.pushReport s.scanEndRecord).setScn { s.scn with due := rest }
    if s.scn.op = .draining then s1.setOp .idle else s1

/-- A producer places its oldest waiting report. -/
def State.place (s : State) : Producer → State
  | .cap => s.placeCal
  | .frd => s.placeFrd
  | .coe => s.placeCoe
  | .scn => s.placeScn

/-- A producer with a due report offers it (R173). -/
def State.offer (s : State) (p : Producer) : State := s.offerBy p fun x => x.place p

/-- Room appears in the report queue: it goes to the head of the wait list, which places its oldest report
and rejoins at the tail if it holds more (R173). -/
def State.giveRoom (s : State) : State :=
  match s.lif.waitList with
  | [] => s
  | p :: rest =>
    let s1 := (s.setLif { s.lif with waitList := rest }).place p
    if s1.hasReport p then s1.joinWaitList p else s1

/-! ## Markers and the end of a drain (R154, R162) -/

/-- A marker is reached: no line, line 0, or a line at most the first line held (R162). -/
def Marker.isReached (m : Marker) (firstHeld : Nat) : Bool :=
  match m.line with
  | none => true
  | some l => decide (l = 0) || decide (l ≤ firstHeld)

/-- The queue with its first marker not yet reached tested: none if that marker, or any, is not newly reached.
A marker that stands behind reached ones that wait for room is tested as the head is (R150, R151, R154, R162;
log 35). -/
def reachNext (firstHeld : Nat) : List Marker → Option (List Marker)
  | [] => none
  | m :: ms =>
    if m.reached then (reachNext firstHeld ms).map (m :: ·)
    else if m.isReached firstHeld then some ({ m with reached := true } :: ms)
    else none

/-- Test the markers in queue order; one newly reached makes its MARK_REACHED due (R162; log 35). -/
def State.testMarker (s : State) : Option State :=
  match reachNext s.scn.firstHeld s.scn.markers with
  | some ms => some (s.setScn { s.scn with markers := ms, due := s.scn.due ++ [.markReached] })
  | none => none

/-- Every marker not yet reached becomes reached, its MARK_REACHED due, with the aborted flag given
(R155, R163). -/
def Scn.reachAll (c : Scn) (aborted : Bool) : Scn :=
  let fresh := c.markers.filter fun m => !m.reached
  { c with
    markers := c.markers.map fun m => if m.reached then m else { m with reached := true, aborted := aborted }
    due := c.due ++ List.replicate fresh.length .markReached }

/-- The drain conditions that hold now, with those already reported (R154). -/
def State.drainNow (s : State) : Drain where
  ringEmpty := s.scn.drain.ringEmpty || s.rng.lines.isEmpty
  framesEmpty := s.scn.drain.framesEmpty || s.frd.table.isEmpty
  regionsEmpty := s.scn.drain.regionsEmpty || s.dfd.regions.isEmpty
  previewDone := s.scn.drain.previewDone || s.coe.previewDone || s.coe.rows.isEmpty
  parked := s.scn.drain.parked || s.trc.standing

/-- All five conditions hold (R154). -/
def Drain.all (d : Drain) : Bool :=
  d.ringEmpty && d.framesEmpty && d.regionsEmpty && d.previewDone && d.parked

/-- In DRAINING the blocks report their conditions; preview done is set when the queue has emptied; at the
last condition the reason is COMPLETE and SCAN_END is due after every marker (R125, R154, R163). -/
def State.drainCheck (s : State) : Option State :=
  if s.scn.op = .draining ∧ s.scn.endReason = none then
    let d := s.drainNow
    if d = s.scn.drain ∧ ¬d.all then none
    else
      let s1 := s.setScn { s.scn with drain := d }
      let s2 := if d.previewDone then s1.setCoe { s1.coe with previewDone := true } else s1
      if d.all then
        let c := s2.scn.reachAll false
        some (s2.setScn { c with endReason := some .complete, due := c.due ++ [.scanEnd] })
      else some s2
  else none

/-- STOPPING ends when the carriage has given its stop event and no SCAN_END or CAL_DONE waits (R160). -/
def State.stoppingEnds (s : State) : Bool :=
  decide (s.scn.op = .stopping) && s.trc.standing && !s.scn.due.contains .scanEnd && s.cap.report.isNone

/-! ## Settling -/

/-- The producers in the order in which reports that become due in one row are offered (log 9). -/
def producers : List Producer := [.cap, .frd, .coe, .scn]

/-- The first producer with a due report that is not on the wait list. -/
def State.offering (s : State) : Option Producer :=
  producers.find? fun p => s.hasReport p && !s.lif.waitList.contains p

/-- One reaction of the device to what the row has done so far, or none when nothing is left to do. -/
def State.settleStep (s : State) : Option State :=
  match s.coeAdvance with
  | some s1 => some s1
  | none =>
    match s.testMarker with
    | some s1 => some s1
    | none =>
      match s.drainCheck with
      | some s1 => some s1
      | none =>
        match s.offering with
        | some p => some (s.offer p)
        | none => if s.stoppingEnds then some (s.setOp .idle) else none

/-- Reactions one after another, at most so many. -/
def State.settleN : Nat → State → State
  | 0, s => s
  | k + 1, s =>
    match s.settleStep with
    | some s1 => State.settleN k s1
    | none => s

/-- The device settles: output steps, reached markers, drain conditions, offered reports and the end of
STOPPING, until nothing is left to do. One row causes at most 2 output steps for each of 8 frames, 4
markers, 6 drain reports, 12 offers and one end of STOPPING, far fewer than the bound. -/
def State.settle (s : State) : State := State.settleN 128 s

end Sys2Proof.Machine
end

