-- ==== Sys2Proof/Machine/Operands.lean ====
section
/-! DEFINITION. The commands of chapter 10 as records: their kinds, the states that take them, the form of
their payloads, and the fields carried in both directions (sections 8.6, 11.1 to 11.4). -/

namespace Sys2Proof.Machine

/-! ## Kinds (R196) -/

/-- The twenty command kinds. -/
inductive Kind where
  | identify | status | softReset | abort | setup | profile | formatRule | scanStart | mark | speedCap
  | lamp | home | move | afeWrite | afeRead | calRun | calLoad | calRead | causeEnable | causeClear
deriving DecidableEq, Repr

/-- The code of a kind (R196). -/
def Kind.code : Kind → Byte
  | .identify => 0x01#8 | .status => 0x02#8 | .softReset => 0x03#8 | .abort => 0x04#8
  | .setup => 0x08#8 | .profile => 0x09#8 | .formatRule => 0x0A#8 | .scanStart => 0x0B#8
  | .mark => 0x0C#8 | .speedCap => 0x0D#8 | .lamp => 0x10#8 | .home => 0x11#8 | .move => 0x12#8
  | .afeWrite => 0x14#8 | .afeRead => 0x15#8 | .calRun => 0x18#8 | .calLoad => 0x19#8
  | .calRead => 0x1A#8 | .causeEnable => 0x1C#8 | .causeClear => 0x1D#8

/-- Every kind, in the order of the codes. -/
def Kind.all : List Kind :=
  [.identify, .status, .softReset, .abort, .setup, .profile, .formatRule, .scanStart, .mark, .speedCap,
   .lamp, .home, .move, .afeWrite, .afeRead, .calRun, .calLoad, .calRead, .causeEnable, .causeClear]

/-- The kind of a code, if it is a command's (R170, R196). -/
def kindOf (code : Byte) : Option Kind := Kind.all.find? fun k => k.code = code

/-- The kind of the reply to a kind (R171, R196). -/
def replyKind (code : Byte) : Byte := if code.toNat < 0x80 then code + 0x80#8 else 0xFF#8

/-- The operation states that take a command (section 8.6, R179). -/
def Kind.takenIn (k : Kind) (op : OpState) : Bool :=
  match k with
  | .identify | .status | .softReset | .abort | .mark | .speedCap | .profile | .formatRule
  | .causeEnable | .causeClear => true
  | .lamp => decide (op ≠ .calibrating) && decide (op ≠ .preparing) && decide (op ≠ .scanning)
  | .home | .afeWrite | .afeRead => decide (op = .idle) || decide (op = .faulted)
  | .move | .calRun | .calLoad | .calRead | .setup | .scanStart => decide (op = .idle)

/-- The commands that reply BUSY while a FAULT or SCAN_END waits (R149, R163, R179). -/
def Kind.heldByEnd : Kind → Bool
  | .scanStart | .home | .move | .calRun => true
  | _ => false

/-! ## Form (R179, R195, R197) -/

/-- The payload length of a kind; CAL_LOAD's follows from the count it carries (R197). -/
def Kind.length (k : Kind) (p : List Byte) : Nat :=
  match k with
  | .identify | .status | .softReset | .abort | .home | .scanStart => 0
  | .lamp | .afeRead | .speedCap => 1
  | .move | .afeWrite | .mark | .causeEnable | .causeClear => 2
  | .calRun => 5
  | .calLoad => 7 + 2 * u16 p 5
  | .calRead => 6
  | .setup => 32
  | .profile => 10
  | .formatRule => 6

/-- The byte at an offset is a flag: 0 or 1 (R195). -/
def flagAt (p : List Byte) (i : Nat) : Bool := decide (u8 p i ≤ 1)

/-- The flag at an offset is on (R195). -/
def onAt (p : List Byte) (i : Nat) : Bool := decide (u8 p i = 1)

/-- Every field that names one of a fixed set of choices names one of them (R179, R195, R196). -/
def Kind.choicesOk (k : Kind) (p : List Byte) : Bool :=
  match k with
  | .lamp => flagAt p 0
  | .calLoad => decide (u8 p 0 ≤ 3) && decide (u8 p 1 ≤ 1) && flagAt p 2
  | .calRead => decide (u8 p 0 ≤ 3) && decide (u8 p 1 ≤ 1)
  | .setup => flagAt p 28 && flagAt p 29 && flagAt p 30
  | .profile => decide (u8 p 0 ≤ 1) && (decide (u8 p 1 = 16) || decide (u8 p 1 = 8)) && flagAt p 2
  | .formatRule => flagAt p 1
  | .causeEnable => decide (u16 p 0 < 512)
  | .causeClear => decide (u16 p 0 < 512)
  | .identify | .status | .softReset | .abort | .scanStart | .mark | .speedCap | .home | .move
  | .afeWrite | .afeRead | .calRun => true

/-- The form step of R179. -/
def Kind.formOk (k : Kind) (p : List Byte) : Bool := decide (p.length = k.length p) && k.choicesOk p

/-! ## Replies (R198) -/

/-- A reply with status OK. -/
def okReply (rest : List Byte) : List Byte := 0#8 :: rest
/-- A reply BUSY: the operation state in which the command was refused. -/
def busyReply (op : OpState) : List Byte := [1#8, op.code]
/-- A reply BAD_ARG to a command other than SETUP. -/
def badArgReply : List Byte := [2#8]
/-- A reply BAD_ARG to SETUP, naming a field. -/
def badFieldReply (field : Nat) : List Byte := [2#8, byte field]
/-- A reply NOT_READY to a command other than SCAN_START. -/
def notReadyReply : List Byte := [3#8]
/-- A reply NOT_READY to SCAN_START: the condition that failed first. -/
def conditionReply (condition : Nat) : List Byte := [3#8, byte condition]
/-- A reply FULL. -/
def fullReply : List Byte := [4#8]
/-- A reply UNKNOWN_KIND: the kind received (R170). -/
def unknownReply (kind : Byte) : List Byte := [6#8, kind]

/-- The number of the first SETUP flag that is not 0 or 1 (R198). -/
def badFlagField (p : List Byte) : Nat :=
  if !flagAt p 28 then 15 else if !flagAt p 29 then 16 else 17

/-- The reply to a command whose form is refused (R179, R198). -/
def Kind.formReply (k : Kind) (p : List Byte) : List Byte :=
  if k = .setup then
    if p.length ≠ k.length p then badFieldReply 0 else badFieldReply (badFlagField p)
  else badArgReply

/-! ## Codes of the replies (R196) -/

/-- The code of a lamp state. -/
def Lamp.code : Lamp → Byte
  | .off => 0#8 | .warming => 1#8 | .on => 2#8

/-- The code of a motion state. -/
def Motion.code : Motion → Byte
  | .parked => 0#8 | .homing => 1#8 | .moving => 2#8 | .backtracking => 3#8 | .approaching => 4#8
  | .cruising => 5#8

/-- The code of a link error. -/
def LinkError.code : LinkError → Byte
  | .none => 0#8 | .crc => 1#8 | .length => 2#8 | .timeout => 3#8

/-- The code of a byte not acknowledged; 0 is none. -/
def nackCode : Option AfeByte → Byte
  | none => 0#8 | some .address => 1#8 | some .register => 2#8 | some .data => 3#8

/-- A set of causes as its two-byte field (R195). -/
def CauseSet.bytes (c : CauseSet) : List Byte := le16 c.toNat

/-- The causes named by the two-byte field of a payload (R195). -/
def causesOf (p : List Byte) : CauseSet := BitVec.ofNat 9 (u16 p 0)

/-! ## The SETUP payload (R197) and its clamps (R182) -/

/-- The fields of a SETUP payload, as carried. -/
def setupOf (p : List Byte) : Setup where
  p0 := u16 p 0
  n := u16 p 2
  w := u16 p 4
  wl := u16 p 6
  wr := u16 p 8
  lp := u16 p 10
  baseR := u16 p 12
  baseG := u16 p 14
  baseIR := u16 p 16
  gl := u8 p 18
  il := u8 p 19
  gapMin := u8 p 20
  imageMin := u8 p 21
  mfl := u16 p 22
  edge := u8 p 24
  t := u8 p 25
  d := u8 p 26
  k := u8 p 27
  repair := onAt p 28
  preview := onAt p 29
  passRejected := onAt p 30
  afeAddress := u8 p 31

/-- A setup laid out as the SETUP payload. -/
def Setup.bytes (u : Setup) : List Byte :=
  le16 u.p0 ++ le16 u.n ++ le16 u.w ++ le16 u.wl ++ le16 u.wr ++ le16 u.lp ++
  le16 u.baseR ++ le16 u.baseG ++ le16 u.baseIR ++
  [byte u.gl, byte u.il, byte u.gapMin, byte u.imageMin] ++ le16 u.mfl ++
  [byte u.edge, byte u.t, byte u.d, byte u.k, flagByte u.repair, flagByte u.preview,
   flagByte u.passRejected, byte u.afeAddress]

/-- Every clamped field brought into its range, each alone (section 10.3, R182). -/
def Setup.clamped (u : Setup) : Setup :=
  { u with
    lp := clamp 250 20000 u.lp
    baseR := max 256 u.baseR
    baseG := max 256 u.baseG
    baseIR := max 256 u.baseIR
    gl := clamp 128 255 u.gl
    il := clamp 64 255 u.il
    gapMin := clamp 1 32 u.gapMin
    imageMin := clamp 1 32 u.imageMin
    mfl := clamp 64 16384 u.mfl
    edge := clamp 64 255 u.edge
    t := clamp 32 240 u.t
    d := min 7 u.d }

/-- The number of the first field of a clamped setup that is refused, in the order of the table; none if
every test passes (R182, R198). -/
def Setup.refusedField (u : Setup) : Option Nat :=
  if u.n < 1 ∨ 60000 < u.n then some 2
  else if u.w < 64 ∨ 8192 < u.w ∨ u.w % 16 ≠ 0 then some 3
  else if u.wr ≤ u.wl ∨ u.w ≤ u.wr ∨ u.wr + 1 - u.wl < 64 then some 4
  else if u.gl < u.il + 8 then some 8
  else if 127 < u.afeAddress then some 18
  else if Config.maxHalf + 1 < u.p0 + u.n then some 19
  else none

/-! ## The other payloads (R197) -/

/-- The profile carried by PROFILE, its margins clamped (R108). -/
def profileOf (p : List Byte) : Profile where
  infrared := onAt p 0
  eight := decide (u8 p 1 = 8)
  mirror := onAt p 2
  mc := min 63 (u8 p 3)
  mt := min 15 (u8 p 4)
  mb := min 15 (u8 p 5)
  fw := u16 p 6
  fill := u16 p 8

/-- A fixed width that PROFILE takes: 0, or an even number from 16 to 8,192 (R108). -/
def widthOk (fw : Nat) : Bool :=
  decide (fw = 0) || (decide (fw % 2 = 0) && decide (16 ≤ fw) && decide (fw ≤ 8192))

/-- A profile laid out as the PROFILE payload. -/
def Profile.bytes (f : Profile) : List Byte :=
  [flagByte f.infrared, f.depthByte, flagByte f.mirror, byte f.mc, byte f.mt, byte f.mb] ++
  le16 f.fw ++ le16 f.fill

/-- The rule carried by FORMAT_RULE (R48). -/
def ruleOf (p : List Byte) : FormatRule := ⟨onAt p 1, u16 p 2, u16 p 4⟩

/-- A rule with its index, laid out as the FORMAT_RULE payload. -/
def FormatRule.bytes (r : FormatRule) (index : Nat) : List Byte :=
  [byte index, flagByte r.enabled] ++ le16 r.least ++ le16 r.most

/-- The channel of a channel code (R196). -/
def channelOf {α : Type} (x : PerChannel α) : Nat → α
  | 0 => x.r | 1 => x.g | 2 => x.b | _ => x.ir

/-- Replace the value of a channel code. -/
def setChannel {α : Type} (x : PerChannel α) (v : α) : Nat → PerChannel α
  | 0 => { x with r := v } | 1 => { x with g := v } | 2 => { x with b := v } | _ => { x with ir := v }

/-- The count values of a CAL_LOAD payload (R197). -/
def loadValues (p : List Byte) : List Half :=
  (List.range (u16 p 5)).map fun i => half (u16 p (7 + 2 * i))

end Sys2Proof.Machine
end

