-- ==== Sys2Proof/Machine/Scan.lean ====
section
/-! DEFINITION. The Scan Controller: the clearing of a scan, stops, faults, the entry into DRAINING, and
what the starts of a scan and of a reset set in every block (chapter 8 and the reset tables). -/

namespace Sys2Proof.Machine

/-! ## Stopping an operation (R155 to R160) -/

/-- Clear every block's part of a scan: stop order, line capture ended, ring, tables, queue, output and
preview cleared, the live entries counted as abandoned (R155). -/
def State.scanClear (s : State) : State :=
  let s1 := s.stopOrder
  let s2 := s1.setCap s1.cap.endCapture
  s2.ringClear.frdClear.dfdClear.rpeClear.coeClear

/-- Stop a scan by ABORT or by the removal of the holder: cleared, the markers not yet reached aborted,
SCAN_END due after them, STOPPING entered (R155, R157). -/
def State.stopScan (s : State) (reason : EndReason) : State :=
  let s1 := s.scanClear
  let c := s1.scn.reachAll true
  (s1.setScn { c with endReason := some reason, due := c.due ++ [ScnReport.scanEnd] }).setOp .stopping

/-- A fault ends a scan: FAULT is due first, then the aborted markers, then SCAN_END; FAULTED is entered
at once (R158, R163). `late` is the late line of LINE_LATE. -/
def State.scanFault (s : State) (kind : FaultKind) (late : Nat) : State :=
  let f : FaultReport := ⟨kind, s.scn.op, late⟩
  let s1 := s.scanClear
  let c := ({ s1.scn with due := s1.scn.due ++ [ScnReport.fault f] } : Scn).reachAll true
  (s1.setScn { c with
    endReason := some .fault
    endFault := some kind
    due := c.due ++ [ScnReport.scanEnd] }).setOp .faulted

/-- A calibration run ends early with an outcome; CAL_DONE is due (R8, R13). -/
def State.endCalRun (s : State) (outcome : CalOutcome) : State :=
  if s.cap.cal.isSome then s.setCap (s.cap.endRun outcome) else s

/-- A fault during POSITIONING: for a calibration move CAL_DONE reporting ABORTED is due; FAULT is due;
FAULTED is entered (R159, R164). -/
def State.moveFault (s : State) (kind : FaultKind) : State :=
  let f : FaultReport := ⟨kind, s.scn.op, 0⟩
  let s1 := s.endCalRun .aborted
  (s1.setScn { s1.scn with due := s1.scn.due ++ [ScnReport.fault f] }).setOp .faulted

/-- A scan is in progress and its SCAN_END is not yet due (R155, R157, R158). -/
def State.scanRuns (s : State) : Bool :=
  match s.scn.op with
  | .preparing => true
  | .scanning => true
  | .draining => decide (s.scn.endReason = none)
  | _ => false

/-- TRC reports an END edge, or a forward step refused at an active END: the carriage stops at once,
END_STOP is raised, and in POSITIONING or a scan it is a fault (R131, R158, R159). -/
def State.endStopAct (s : State) : State :=
  let s1 := s.stopAtOnce.raise .endStop
  if s.scn.op = .positioning then s1.moveFault .endStop
  else if s.scanRuns then s1.scanFault .endStop 0
  else s1

/-- HOME reaches the step limit without its edge: the carriage stops at once, the position stays INVALID,
and in POSITIONING, where a HOME move runs, HOME_FAILED is the fault (R132, R159). -/
def State.homeFailed (s : State) : State :=
  let s1 := s.stopAtOnce
  if s.scn.op = .positioning then s1.moveFault .homeFailed else s1

/-- The line in flight is late: it is discarded, the gate is shut and LINE_LATE is raised; in a scan that
is a fault, in a calibration run it ends the run (R3, R13, R158). -/
def State.lateLine (s : State) : State :=
  match s.cap.inFlight with
  | none => s
  | some f =>
    let s1 := (s.setCap s.cap.endCapture).raise .lineLate
    if s.scn.op = .scanning then s1.scanFault .lineLate f.number
    else if s.scn.op = .calibrating then ((s1.endCalRun .late).stopOrder).setOp .stopping
    else s1

/-- A line-step at the Capture Unit: nothing while the gate is SHUT; with the gate OPEN it starts the next
line, or makes the line in flight late (R1, R3). -/
def State.lineStep (s : State) : State :=
  if s.cap.gateOpen then
    if s.cap.inFlight.isSome then s.lateLine
    else s.setCap s.cap.startScanLine
  else s

/-! ## The end of capture (R4, R153) -/

/-- The entry into DRAINING: park, holdback lifted and release evaluated, preview tail settled (R153). -/
def State.drainStart (s : State) : State :=
  ((s.setOp .draining).stopOrder).ringRelease.previewTail

/-- A line of the scan completes: it is corrected and appended, the counts follow, and it is offered to
FRD, DFD and the Preview Reducer; release is evaluated; the last line begins the drain (R4, R22, R28,
R61, R153). The bases that DFD uses are those of before the line's own update (R40). -/
def State.scanLine (s : State) (dfdFirst : Bool) (number : Nat) (raw : List Pixel) : State :=
  let px := s.cap.correctLine 0 raw
  let s1 := s.ringAppend number px
  let left := s1.cap.remaining - 1
  let s2 := s1.setCap { s1.cap with
    remaining := left
    gateOpen := s1.cap.gateOpen && decide (left ≠ 0) }
  let s3 := (s2.setScn { s2.scn with captured := s2.scn.captured + 1 }).ringRelease
  let baseR := s3.frd.baseR
  let baseIR := s3.frd.baseIR
  let s4 := if dfdFirst then (s3.dfdLine number baseR baseIR px).frdLine number px
    else (s3.frdLine number px).dfdLine number baseR baseIR px
  let s5 := (s4.previewLine px).ringRelease
  if left = 0 then s5.drainStart else s5

/-! ## Calibration lines (R9, R10, R12) -/

/-- The dark capture is complete: averages to working storage, then the warm-up (R9, R10). -/
def Cap.darkDone (c : Cap) (run : CalRun) : Cap :=
  ({ c with
    calTimer := false
    cal := some { run with darkAvg := run.darkSums.map (List.map (average run.lines)) } } : Cap).beginWarmUp

/-- The white capture is complete: averages, gains, verdict; CAL_DONE is due and the run is in its Report
phase (R10 to R12). -/
def Cap.whiteDone (c : Cap) (w : Nat) (run : CalRun) : Cap :=
  let done : CalRun := ({ run with
    phase := .report
    whiteAvg := run.whiteSums.map (List.map (average run.lines)) } : CalRun).withGains
  let failed := calFailed w done.weak
  { c with
    calTimer := false
    cal := some done
    report := some ⟨if failed then .failed else .passed, run.lines, run.target, done.weak, !failed⟩ }

/-- A calibration line completes: its raw samples are added to the sums of the phase and it is counted;
the L-th ends the phase (R9, R10). -/
def State.calLine (s : State) (raw : List Pixel) : State :=
  match s.cap.cal with
  | none => s
  | some run =>
    let c := { s.cap with calCount := s.cap.calCount + 1 }
    let chans := channelLists raw
    match run.phase with
    | .darkCapture =>
      let run1 := { run with darkSums := PerChannel.zip addSums run.darkSums chans }
      if run.lines ≤ c.calCount then s.setCap (c.darkDone run1)
      else s.setCap { c with cal := some run1 }
    | .whiteCapture =>
      let run1 := { run with whiteSums := PerChannel.zip addSums run.whiteSums chans }
      if run.lines ≤ c.calCount then s.setCap (c.whiteDone s.setup.w run1)
      else s.setCap { c with cal := some run1 }
    | _ => s

/-- Pixels arrive on the front-end data port; the W-th of the line in flight completes it, a scan line in
SCANNING, a calibration line in CALIBRATING (R2, R4, R9). -/
def State.pixelsArrive (s : State) (dfdFirst : Bool) (pixels : List Pixel) : State :=
  let taken := s.cap.takePixels s.setup.w pixels
  let s1 := s.setCap taken.1
  match taken.2 with
  | none => s1
  | some f =>
    if s.scn.op = .scanning then s1.scanLine dfdFirst f.number f.received
    else if s.scn.op = .calibrating then s1.calLine f.received
    else s1

/-! ## Starting a scan (R150) and resetting (reset tables) -/

/-- The Capture Unit at SCAN_START: the lamp switched on, next line number 0, N lines remaining, gate SHUT
(R17, R150). -/
def Cap.started (c : Cap) (u : Setup) : Cap :=
  { c.lampOn with nextLine := 0, remaining := u.n, gateOpen := false }

/-- The Frame Detector at SCAN_START (R41, R60). -/
def Frd.started (c : Frd) (u : Setup) : Frd :=
  { c with
    baseR := max 256 u.baseR
    baseG := max 256 u.baseG
    baseIR := max 256 u.baseIR
    classifier := .gap
    imageRun := 0
    gapRun := 0
    probe := []
    nextNumber := 1
    outside := .zero
    handled := 0 }

/-- The Crop Output Engine at SCAN_START: the pending profile promoted, the preview accumulator cleared, and
preview done clear if the preview option is on (R109, R122, R127, R150). DESIGN CHOICE: with the option off, preview
done keeps the value it had, which is set, until the entry into DRAINING sets it (log 37). -/
def Coe.started (c : Coe) (u : Setup) : Coe :=
  { c.promote with
    step := .idle
    frame := none
    segOffset := 0
    settled := 0
    preview := u.preview
    boxes := []
    lineCount := 0
    rowIndex := 0
    rows := []
    previewOffset := 0
    previewDone := c.previewDone && !u.preview }

/-- The Transport Controller at SCAN_START: position, valid flag and cap kept, scan transport on, resume
position P0 (R143, R147). -/
def Trc.started (t : Trc) (u : Setup) : Trc :=
  { Trc.powerOn with
    position := t.position
    valid := t.valid
    dir := t.dir
    scanOn := true
    cap := t.cap
    resumePos := u.p0 }

/-- The Scan Controller at SCAN_START: the counts 0, the drain conditions clear, no end reason (R150). -/
def Scn.started (c : Scn) : Scn :=
  { c with
    captured := 0
    frames := 0
    slivers := 0
    reseeks := 0
    abandoned := 0
    firstHeld := 0
    drain := .clear
    endReason := none
    endFault := none }

/-- The starting state that a taken SCAN_START sets in every block from the setup in force, and PREPARING; a
lamp that is ON lets the run-up wait begin at once (R41, R85, R107, R109, R122, R143, R147, R150, R151). -/
def State.startScan (s : State) : State :=
  let u := s.setup
  let s1 := ((((s.setScn s.scn.started).setCap (s.cap.started u)).setFrd (s.frd.started u)).setDfd
    ⟨[], [], 0⟩).setRpe ⟨[], none, 0, 0⟩
  let s2 := ((s1.setCoe (s.coe.started u)).setTrc (s.trc.started u)).setOp .preparing
  if s2.cap.lamp = .on then s2.releaseRunUp else s2

/-- Every block takes its SOFT_RESET values in one event (R20, R35, R60, R85, R107, R127, R147, R165,
R177, R178, R185, R193). -/
def State.softReset (s : State) : State where
  cap := { Cap.powerOn with
    dark := s.cap.dark
    gain := s.cap.gain
    valid := s.cap.valid
    lamp := s.cap.lamp
    warmup := s.cap.warmup }
  rng := ⟨[]⟩
  frd := { Frd.powerOn with
    baseR := max 256 s.setup.baseR
    baseG := max 256 s.setup.baseG
    baseIR := max 256 s.setup.baseIR
    rules := s.frd.rules }
  dfd := ⟨[], [], 0⟩
  rpe := ⟨[], none, 0, 0⟩
  coe := { Coe.powerOn with
    pendingProfile := s.coe.pendingProfile
    active := s.coe.active
    preview := s.setup.preview }
  trc := { Trc.powerOn with
    position := s.trc.position
    valid := s.trc.valid && decide (s.trc.motion ≠ .homing)
    dir := s.trc.dir }
  scn := .initial s.setup
  lif := .initial
  ntu := .initial s.pins.holder
  pins := s.pins
  pending := s.pending

end Sys2Proof.Machine
end

