-- ==== Sys2Proof/Machine/Commands.lean ====
section
/-! DEFINITION. What each command does once its state and its form are accepted: arguments, conditions,
effect and reply (chapters 1, 3, 6, 7, 8 and 10). -/

namespace Sys2Proof.Machine

/-- What a dispatched command comes to: the state, and the reply payload; none while a front-end transfer
runs (R19). -/
structure Answer where
  state : State
  reply : Option (List Byte)
deriving DecidableEq, Repr

/-- A command answered with a reply, in the state that it leaves (R170, R179). -/
def State.answer (s : State) (reply : List Byte) : Answer := ⟨s, some reply⟩

/-! ## Identity, status and resets -/

/-- The content of the IDENTIFY reply (R180, R198). -/
def identity : List Byte :=
  le16 Config.partCode ++ [byte Config.revision, 4#8, 16#8] ++ le16 64 ++ le16 8192 ++ le16 1 ++
  le16 60000 ++ le16 Config.maxHalf ++
  [byte Config.ringCapacity, byte Config.frameCapacity, byte Config.regionCapacity,
   byte Config.regionCapacity, 4#8, byte Config.markerCapacity, byte Config.previewCapacity, 1#8,
   byte Config.replyCapacity, byte Config.reportCapacity, 1#8] ++
  le16 Config.receiveLimit ++ le16 Config.transmitLimit

/-- The content of the STATUS reply (R181, R198). -/
def State.picture (s : State) : List Byte :=
  [s.scn.op.code, s.cap.lamp.code, flagByte s.cap.valid, s.trc.motion.code, byte s.trc.current.num] ++
  le16 s.trc.position.toNat ++
  [flagByte s.trc.valid, byte s.occupancy, byte s.frd.table.length, byte s.dfd.regions.length,
   byte s.rpe.queue.length, byte s.scn.markers.length] ++
  s.ntu.pending.bytes ++ s.ntu.enabled.bytes ++ [s.lif.lastError.code]

/-- IDENTIFY (R180). -/
def State.actIdentify (s : State) : Answer := s.answer (okReply identity)

/-- STATUS (R181). -/
def State.actStatus (s : State) : Answer := s.answer (okReply s.picture)

/-- SOFT_RESET: its reply is OK and the reset is pending until that reply has been sent (R177, R185). -/
def State.actSoftReset (s : State) : Answer :=
  (s.setLif { s.lif with resetPending := true }).answer (okReply [])

/-- What ABORT does, by operation state (R155, R156). -/
def State.abortNow (s : State) : State :=
  match s.scn.op with
  | .positioning => ((s.endCalRun .aborted).stopOrder).setOp .stopping
  | .calibrating => ((s.endCalRun .aborted).stopOrder).setOp .stopping
  | .preparing => s.stopScan .aborted
  | .scanning => s.stopScan .aborted
  | .draining => if s.scn.endReason = none then s.stopScan .aborted else s
  | .faulted => s.setOp .idle
  | .stopping => s
  | .idle => s

/-- ABORT: its reply reports the state that results (R155, R156). -/
def State.actAbort (s : State) : Answer :=
  let s1 := s.abortNow.settle
  s1.answer (okReply [s1.scn.op.code])

/-! ## Setup, profile and format rules -/

/-- SETUP: clamps, tests, and the setup replaced in one step; another W makes the tables INVALID (R182,
R183, R7). -/
def State.actSetup (s : State) (p : List Byte) : Answer :=
  let u := (setupOf p).clamped
  match u.refusedField with
  | some field => s.answer (badFieldReply field)
  | none =>
    let s1 := s.setScn { s.scn with setup := u }
    let s2 := if u.w = s.setup.w then s1 else s1.setCap { s1.cap with valid := false }
    s2.answer (okReply u.bytes)

/-- PROFILE: the profile waits in the pending slot (R108). -/
def State.actProfile (s : State) (p : List Byte) : Answer :=
  let f := profileOf p
  if widthOk f.fw then (s.setCoe { s.coe with pendingProfile := some f }).answer (okReply f.bytes)
  else s.answer badArgReply

/-- FORMAT_RULE: the named rule is replaced whole (R48). -/
def State.actFormatRule (s : State) (p : List Byte) : Answer :=
  let i := u8 p 0
  let r := ruleOf p
  if 3 < i ∨ r.most < r.least then s.answer badArgReply
  else (s.setFrd { s.frd with rules := s.frd.rules.set r i }).answer (okReply (r.bytes i))

/-! ## Scans and markers -/

/-- The condition of SCAN_START that fails first: tables INVALID, position INVALID, holder absent (R149,
R196). -/
def State.startCondition (s : State) : Option Nat :=
  if !s.cap.valid then some 1
  else if !s.trc.valid then some 2
  else if !s.pins.holder then some 3
  else none

/-- SCAN_START (R149, R150). -/
def State.actScanStart (s : State) : Answer :=
  match s.startCondition with
  | some c => s.answer (conditionReply c)
  | none => s.startScan.answer (okReply [OpState.preparing.code])

/-- The line that MARK records (R161). -/
def State.markLine (s : State) : Option Nat :=
  match s.scn.op with
  | .preparing => some 0
  | .scanning => some s.cap.nextLine
  | .draining => some s.setup.n
  | .idle | .positioning | .calibrating | .stopping | .faulted => none

/-- MARK (R161). -/
def State.actMark (s : State) (p : List Byte) : Answer :=
  if Config.markerCapacity ≤ s.scn.markers.length then s.answer fullReply
  else
    let m : Marker := ⟨half (u16 p 0), s.markLine, false, false⟩
    (s.setScn { s.scn with markers := s.scn.markers ++ [m] }).settle.answer (okReply (lineField s.markLine))

/-- SPEED_CAP: the cap, clamped to S3, is posted (R134). -/
def State.actSpeedCap (s : State) (p : List Byte) : Answer :=
  let g := gradeOf (u8 p 0)
  (s.post .cap g).answer (okReply [byte g.num])

/-! ## Lamp and carriage -/

/-- LAMP (R16). -/
def State.actLamp (s : State) (p : List Byte) : Answer :=
  let c := if onAt p 0 then s.cap.lampOn else s.cap.lampOff
  (s.setCap c).answer (okReply [c.lamp.code])

/-- HOME: POSITIONING, the position INVALID; the motion begins, or waits for the stop event of a carriage
that brakes (R130, R132; log 11). -/
def State.actHome (s : State) : Answer :=
  let s1 := (s.setOp .positioning).setTrc { s.trc with valid := false }
  let s2 := if s.trc.braking then s1.setTrc { s1.trc with queued := some .home } else s1.beginHoming
  s2.answer (okReply [OpState.positioning.code, Motion.homing.code])

/-- Take a move to a target, of MOVE or of a calibration run: POSITIONING, and the motion begins, or waits
for the stop event of a carriage that brakes (R8, R130, R133). -/
def State.takeMove (s : State) (target : Nat) : State :=
  let s1 := s.setOp .positioning
  if s1.trc.braking then s1.setTrc { s1.trc with queued := some (.move target) } else s1.beginMove target

/-- MOVE (R133). A move that waits for a braking carriage replies MOVING (log 11). -/
def State.actMove (s : State) (p : List Byte) : Answer :=
  if s.trc.valid then
    let s1 := s.takeMove (u16 p 0)
    let motion : Motion := if s.trc.braking then .moving else s1.trc.motion
    s1.answer (okReply [s1.scn.op.code, motion.code])
  else s.answer notReadyReply

/-! ## The Front-End Control Port -/

/-- AFE_WRITE: the transfer starts; its reply comes at its end (R19). -/
def State.actAfeWrite (s : State) (p : List Byte) : Answer :=
  ⟨s.setCap { s.cap with afe := some ⟨true, s.setup.afeAddress, byte (u8 p 0), byte (u8 p 1)⟩ }, none⟩

/-- AFE_READ: the transfer starts; its reply comes at its end (R19). -/
def State.actAfeRead (s : State) (p : List Byte) : Answer :=
  ⟨s.setCap { s.cap with afe := some ⟨false, s.setup.afeAddress, byte (u8 p 0), 0#8⟩ }, none⟩

/-! ## Calibration -/

/-- CAL_RUN: the run begins with its move (R8). -/
def State.actCalRun (s : State) (p : List Byte) : Answer :=
  let lines := u8 p 2
  let target := max 4096 (u16 p 3)
  if lines ≠ 8 ∧ lines ≠ 16 ∧ lines ≠ 32 then s.answer badArgReply
  else if !s.trc.valid then s.answer notReadyReply
  else
    let s1 := s.setCap { s.cap with cal := some (CalRun.start lines target) }
    (s1.takeMove (u16 p 0)).answer (okReply ([byte lines] ++ le16 target ++ [OpState.positioning.code]))

/-- Write a segment of one table of one channel (R14). -/
def Cap.loadTable (c : Cap) (channel table first : Nat) (values : List Half) : Cap :=
  if table = 0 then
    { c with dark := setChannel c.dark (Table.writeFrom (channelOf c.dark channel) first values) channel }
  else
    { c with gain := setChannel c.gain (Table.writeFrom (channelOf c.gain channel) first values) channel }

/-- CAL_LOAD (R14). -/
def State.actCalLoad (s : State) (p : List Byte) : Answer :=
  let first := u16 p 3
  let count := u16 p 5
  if 256 < count ∨ s.setup.w < first + count then s.answer badArgReply
  else
    let c := s.cap.loadTable (u8 p 0) (u8 p 1) first (loadValues p)
    (s.setCap { c with valid := onAt p 2 }).answer (okReply [flagByte (onAt p 2)])

/-- A table by its channel and table codes (R196). -/
def Cap.table (c : Cap) (channel table : Nat) : Table :=
  if table = 0 then channelOf c.dark channel else channelOf c.gain channel

/-- CAL_READ (R15). -/
def State.actCalRead (s : State) (p : List Byte) : Answer :=
  let first := u16 p 2
  let count := u16 p 4
  if count = 0 ∨ 256 < count ∨ s.setup.w < first + count then s.answer badArgReply
  else
    let values := Table.readFrom (s.cap.table (u8 p 0) (u8 p 1)) first count
    s.answer (okReply ([flagByte s.cap.valid] ++ le16 count ++ values.flatMap fun v => le16 v.toNat))

/-! ## Causes -/

/-- CAUSE_ENABLE (R191). -/
def State.actCauseEnable (s : State) (p : List Byte) : Answer :=
  let s1 := s.enableCauses (causesOf p)
  s1.answer (okReply (s1.ntu.enabled.bytes ++ s1.ntu.pending.bytes))

/-- CAUSE_CLEAR (R192). -/
def State.actCauseClear (s : State) (p : List Byte) : Answer :=
  let s1 := s.clearCauses (causesOf p)
  s1.answer (okReply s1.ntu.pending.bytes)

/-! ## Judging a command (R179) -/

/-- The argument and condition steps of a command, and its effect. -/
def State.act (s : State) (k : Kind) (p : List Byte) : Answer :=
  match k with
  | .identify => s.actIdentify
  | .status => s.actStatus
  | .softReset => s.actSoftReset
  | .abort => s.actAbort
  | .setup => s.actSetup p
  | .profile => s.actProfile p
  | .formatRule => s.actFormatRule p
  | .scanStart => s.actScanStart
  | .mark => s.actMark p
  | .speedCap => s.actSpeedCap p
  | .lamp => s.actLamp p
  | .home => s.actHome
  | .move => s.actMove p
  | .afeWrite => s.actAfeWrite p
  | .afeRead => s.actAfeRead p
  | .calRun => s.actCalRun p
  | .calLoad => s.actCalLoad p
  | .calRead => s.actCalRead p
  | .causeEnable => s.actCauseEnable p
  | .causeClear => s.actCauseClear p

/-- The state step refuses the command (R179). -/
def State.refusesNow (s : State) (k : Kind) : Bool :=
  !k.takenIn s.scn.op || (k.heldByEnd && s.scn.endWaits)

/-- A command judged in the four steps of R179. -/
def State.judge (s : State) (k : Kind) (p : List Byte) : Answer :=
  if s.refusesNow k then s.answer (busyReply s.scn.op)
  else if k.formOk p then s.act k p
  else s.answer (k.formReply p)

/-- What a dispatched record comes to: a command judged, or an unknown kind (R170). -/
def State.judgeRecord (s : State) (r : Record) : Answer :=
  match kindOf r.kind with
  | some k => s.judge k r.payload
  | none => s.answer (unknownReply r.kind)

end Sys2Proof.Machine
end

