-- ==== Sys2Proof/Machine/Arbiter.lean ====
section
/-! DEFINITION. The Link Interface between the framer and the transmitter: the receive slot, dispatch,
replies, and the transmit arbiter (sections 9.3 to 9.7). -/

namespace Sys2Proof.Machine

/-- The reply to a record: its tag unchanged, its kind plus 0x80 or 0xFF (R171). -/
def replyTo (r : Record) (payload : List Byte) : Record := ⟨replyKind r.kind, r.tag, payload⟩

/-- A reply joins the tail of the reply queue (R171). -/
def State.pushReply (s : State) (r : Record) : State :=
  s.setLif { s.lif with replies := s.lif.replies ++ [r] }

/-- The receive slot becomes empty, unless a SOFT_RESET holds it until the reset (R169, R177). -/
def State.freeSlot (s : State) : State :=
  if s.lif.resetPending then s else s.setLif { s.lif with slot := none }

/-- Dispatch a record: it acts, its reply joins the queue and the slot is freed; a front-end transfer keeps
the slot and replies at its end (R169 to R171). -/
def State.dispatch (s : State) (r : Record) : State :=
  let a := s.judgeRecord r
  match a.reply with
  | some payload => (a.state.pushReply (replyTo r payload)).freeSlot
  | none => a.state

/-- The record that waits in the slot is dispatched if the reply queue has room (R170). -/
def State.dispatchWaiting (s : State) : State :=
  match s.lif.slot with
  | some r =>
    if s.slotWaits && decide (s.lif.replies.length < Config.replyCapacity) then s.dispatch r else s
  | none => s

/-- The framer hands on a good record and returns to HUNT: the record enters the slot, and is dispatched
when the reply queue has room, or is an overrun (R167, R169, R170). -/
def State.receiveGood (s : State) (r : Record) : State :=
  let s1 := s.setLif { s.lif with framer := .hunt }
  if s.lif.slot.isSome then s1.raise .rxOverrun
  else (s1.setLif { s1.lif with slot := some r }).dispatchWaiting

/-! ## The transmit arbiter (R174 to R177) -/

/-- The causes both pending and enabled, which a NOTICE carries (R190). -/
def Ntu.noticeSet (n : Ntu) : CauseSet := n.pending &&& n.enabled

/-- The transmitter begins to send a record. -/
def State.send (s : State) (r : Record) : State := s.setLif { s.lif with tx := some r }

/-- The NOTICE record, formed from the set standing now (R174, R199). -/
def State.noticeRecord (s : State) : Record := ⟨0x40#8, 0#8, s.ntu.noticeSet.bytes⟩

/-- The notice slot becomes not due (R174). -/
def State.noticeDone (s : State) : State := s.setLif { s.lif with noticeDue := false }

/-- The arbiter takes a report, an IMAGE record or a PREVIEW record, in this order (R173, R175). -/
def State.chooseData (s : State) : State :=
  match s.lif.reports with
  | r :: rest => ((s.setLif { s.lif with reports := rest }).send r).giveRoom.settle
  | [] =>
    match s.takeImage with
    | some (r, s1) => (s1.send r).settle
    | none =>
      match s.takePreview with
      | some (r, s1) => (s1.send r).settle
      | none => s

/-- The arbiter takes the NOTICE if one is due and its set is not empty, else goes on (R174, R175). -/
def State.chooseUnsolicited (s : State) : State :=
  if s.lif.noticeDue then
    if s.ntu.noticeSet ≠ 0 then (s.noticeDone).send s.noticeRecord else s.noticeDone.chooseData
  else s.chooseData

/-- The arbiter chooses, when the transmitter is IDLE and LINK_HOLD inactive: the head reply, whose room
lets the waiting command act; else, unless a reset is pending, an unsolicited record (R170, R175 to
R177). -/
def State.arbitrate (s : State) : State :=
  if s.lif.tx.isSome || s.pins.linkHold then s
  else
    match s.lif.replies with
    | r :: rest => ((s.setLif { s.lif with replies := rest }).send r).dispatchWaiting
    | [] => if s.lif.resetPending then s else s.chooseUnsolicited

/-- The end of a row: the device settles and the arbiter chooses (log 32). -/
def State.finish (s : State) : State := s.settle.arbitrate

/-- The kind of a SOFT_RESET reply. -/
def softResetReply : Byte := 0x83#8

/-- The transmitter is sending the reply OK of the pending SOFT_RESET; a refusal of an earlier SOFT_RESET, sent
before it, is not that reply (R177). -/
def State.sendsResetReply (s : State) : Bool :=
  s.lif.resetPending && (match s.lif.tx with
    | some r => decide (r.kind = softResetReply) && decide (r.payload = okReply [])
    | none => false)

/-- The last byte of the record being sent has gone: the reset takes effect after the SOFT_RESET reply,
else the arbiter chooses the next record (R175, R177). -/
def State.recordEnds (s : State) : State :=
  match s.lif.tx with
  | none => s
  | some _ =>
    if s.sendsResetReply then s.softReset
    else (s.setLif { s.lif with tx := none }).arbitrate

end Sys2Proof.Machine
end

