-- ==== Sys2Proof/Machine/CalRows.lean ====
section
/-! DEFINITION. The rows of the lamp, of a calibration run and of the Front-End Control Port. -/

namespace Sys2Proof.Machine

/-- The warm-up timer expires: the lamp is ON, which releases a scan in PREPARING or a calibration run in
its warm-up (R10, R16, R143, R151). -/
def State.warmupEnds (s : State) : State :=
  if s.cap.warmup then
    let s1 := s.setCap { s.cap with lamp := .on, warmup := false }
    if s.scn.op = .preparing then s1.releaseRunUp
    else if s.cap.cal.map (·.phase) = some .warmUp then s1.setCap s1.cap.beginWhiteCapture
    else s1
  else s

/-- WARMUP_EXPIRY (R16). -/
def execWarmupExpiry (s : State) : Host.Outcome State Fault Refusal := .next s.warmupEnds.finish

/-- DARK_SETTLE_END: the 200 ms settle of a calibration run ends and the dark capture begins (R9). -/
def execDarkSettleEnd (s : State) : Host.Outcome State Fault Refusal :=
  .next (if s.cap.cal.map (·.phase) = some .darkSettle then s.setCap s.cap.beginDarkCapture else s)

/-- The calibration line timer expires: a line starts, or the line in flight is late (R9, R13). -/
def State.calTimerEnds (s : State) : State :=
  if s.cap.calTimer then
    if s.cap.inFlight.isSome then s.lateLine else s.setCap (s.cap.startLine s.cap.calCount)
  else s

/-- CAL_LINE_TIMER (R9). -/
def execCalLineTimer (s : State) : Host.Outcome State Fault Refusal := .next s.calTimerEnds.finish

/-- CAL_LINE_COMPLETE: the pixels that complete a calibration line (R9, R10, R12; log 15). -/
def execCalLineComplete (pixels : List Pixel) (s : State) : Host.Outcome State Fault Refusal :=
  .next (s.pixelsArrive false pixels).finish

/-- The byte that counts as not acknowledged: a read's data byte is taken by the device and awaits no
acknowledge (R18, log 23). -/
def AfeTransfer.failed (t : AfeTransfer) (nack : Option AfeByte) : Option AfeByte :=
  if !t.write && decide (nack = some .data) then none else nack

/-- The reply payload of a transfer: status, the byte not acknowledged, and for a read the data byte, 0 on
a missing acknowledge (R19, R198). -/
def AfeTransfer.reply (t : AfeTransfer) (nack : Option AfeByte) (data : Byte) : List Byte :=
  [if nack.isSome then 5#8 else 0#8, nackCode nack] ++
    (if t.write then [] else [if nack.isSome then 0#8 else data])

/-- The transfer on the Front-End Control Port ends: AFE_NACK on a missing acknowledge, the reply of the
command in the slot, and the slot is freed (R18, R19, R169). -/
def State.transferEnds (s : State) (t : AfeTransfer) (nack : Option AfeByte) (data : Byte) : State :=
  let s1 := s.setCap { s.cap with afe := none }
  let s2 := if nack.isSome then s1.raise .afeNack else s1
  match s.lif.slot with
  | some r => ((s2.pushReply (replyTo r (t.reply nack data))).freeSlot).arbitrate
  | none => s2.arbitrate

/-- AFE_TRANSFER_COMPLETE (R18, R19). -/
def execAfeTransferComplete (nack : Option AfeByte) (data : Byte) (s : State) :
    Host.Outcome State Fault Refusal :=
  .next (match s.cap.afe with
    | some t => s.transferEnds t (t.failed nack) data
    | none => s)

end Sys2Proof.Machine
end

