-- ==== Sys2Proof/Machine/Link.lean ====
section
/-! DEFINITION. Records as bytes on the link: the check, the frame, and the receive framer (sections 9.2
and 9.3). -/

namespace Sys2Proof.Machine

/-! ## The check (R166) -/

/-- One bit of the check: the register moves up, and the generator 0x1021 is taken off if a one leaves it. -/
def crcShift (r : Half) : Half := if r.getLsbD 15 then (r <<< 1) ^^^ 0x1021#16 else r <<< 1

/-- One byte taken into the check, its bits most significant first. -/
def crcByte (r : Half) (b : Byte) : Half :=
  let r0 := r ^^^ (b.zeroExtend 16 <<< 8)
  crcShift (crcShift (crcShift (crcShift (crcShift (crcShift (crcShift (crcShift r0)))))))

/-- The check register at the start of a record. -/
def crcStart : Half := 0xFFFF#16

/-- The check over a run of bytes. -/
def crcOf (bytes : List Byte) : Half := bytes.foldl crcByte crcStart

/-! ## The frame (R166) -/

/-- The first byte of the sync pair. -/
def syncFirst : Byte := 0xC5#8

/-- The second byte of the sync pair. -/
def syncSecond : Byte := 0x5C#8

/-- The header and the payload of a record, which the check covers. -/
def recordBody (r : Record) : List Byte := [r.kind, r.tag] ++ le16 r.payload.length ++ r.payload

/-- A record as the bytes on the link: sync pair, header, payload, check (R166). -/
def recordBytes (r : Record) : List Byte :=
  let c := crcOf (recordBody r)
  [syncFirst, syncSecond] ++ recordBody r ++ [byte (c.toNat / 256), byte c.toNat]

/-! ## The receive framer (R167, R168) -/

/-- The framer moves on within a record or between records. -/
def State.setFramer (s : State) (f : Framer) : State := s.setLif { s.lif with framer := f }

/-- A receive error: the record is discarded, the framer hunts, the kind of error is recorded and
LINK_ERROR raised (R168). -/
def State.linkError (s : State) (e : LinkError) : State :=
  ((s.setLif { s.lif with framer := .hunt, lastError := e }).raise .linkError).arbitrate

/-- A good record arrives whole: it goes to the slot, and the arbiter chooses (R169, R170, R175). -/
def State.recordArrives (s : State) (r : Record) : State := (s.receiveGood r).arbitrate

/-- The fourth header byte has come: PAYLOAD, CHECK when the length is 0, or the length error (R167,
R168). -/
def State.headerDone (s : State) (kind tag low high : Byte) (check : Half) : State :=
  let n := low.toNat + 256 * high.toNat
  if Config.receiveLimit < n then s.linkError .length
  else if n = 0 then s.setFramer (.check ⟨kind, tag, []⟩ check none)
  else s.setFramer (.payload kind tag n [] check)

/-- One byte arrives on the link (R167). -/
def State.takeByte (s : State) (b : Byte) : State :=
  match s.lif.framer with
  | .hunt => if b = syncFirst then s.setFramer .sync else s
  | .sync =>
    if b = syncSecond then s.setFramer (.header [] crcStart)
    else if b = syncFirst then s
    else s.setFramer .hunt
  | .header bytes check =>
    let check1 := crcByte check b
    match bytes with
    | [kind, tag, low] => s.headerDone kind tag low b check1
    | _ => s.setFramer (.header (bytes ++ [b]) check1)
  | .payload kind tag n bytes check =>
    let all := bytes ++ [b]
    let check1 := crcByte check b
    if n ≤ all.length then s.setFramer (.check ⟨kind, tag, all⟩ check1 none)
    else s.setFramer (.payload kind tag n all check1)
  | .check r check first =>
    match first with
    | none => s.setFramer (.check r check (some b))
    | some high =>
      if high.toNat * 256 + b.toNat = check.toNat then s.recordArrives r else s.linkError .crc

/-- Bytes arrive on the link, one at a time (R167). -/
def State.takeBytes (s : State) : List Byte → State
  | [] => s
  | b :: rest => (s.takeByte b).takeBytes rest

/-- The inter-byte timer runs: a record has begun and is not complete (R167). -/
def Framer.timed : Framer → Bool
  | .hunt => false
  | .sync => false
  | .header _ _ => true
  | .payload _ _ _ _ _ => true
  | .check _ _ _ => true

/-- A command row: a record of a kind arrives whole and good; one longer than the receiver takes is a
length error (R166 to R168; log 1, log 25). -/
def State.commandRow (s : State) (kind tag : Byte) (payload : List Byte) : State :=
  if Config.receiveLimit < payload.length then s.linkError .length
  else s.recordArrives ⟨kind, tag, payload⟩

/-! ## The records of the command rows (R166, R196) -/

/-- The record that a command row stands for; none for a row that is no record (log 1). -/
def recordOf : Instr → Option Record
  | .identify tag p => some ⟨Kind.code .identify, tag, p⟩
  | .status tag p => some ⟨Kind.code .status, tag, p⟩
  | .softReset tag p => some ⟨Kind.code .softReset, tag, p⟩
  | .abort tag p => some ⟨Kind.code .abort, tag, p⟩
  | .setup tag p => some ⟨Kind.code .setup, tag, p⟩
  | .profile tag p => some ⟨Kind.code .profile, tag, p⟩
  | .formatRule tag p => some ⟨Kind.code .formatRule, tag, p⟩
  | .scanStart tag p => some ⟨Kind.code .scanStart, tag, p⟩
  | .mark tag p => some ⟨Kind.code .mark, tag, p⟩
  | .speedCap tag p => some ⟨Kind.code .speedCap, tag, p⟩
  | .lamp tag p => some ⟨Kind.code .lamp, tag, p⟩
  | .home tag p => some ⟨Kind.code .home, tag, p⟩
  | .move tag p => some ⟨Kind.code .move, tag, p⟩
  | .afeWrite tag p => some ⟨Kind.code .afeWrite, tag, p⟩
  | .afeRead tag p => some ⟨Kind.code .afeRead, tag, p⟩
  | .calRun tag p => some ⟨Kind.code .calRun, tag, p⟩
  | .calLoad tag p => some ⟨Kind.code .calLoad, tag, p⟩
  | .calRead tag p => some ⟨Kind.code .calRead, tag, p⟩
  | .causeEnable tag p => some ⟨Kind.code .causeEnable, tag, p⟩
  | .causeClear tag p => some ⟨Kind.code .causeClear, tag, p⟩
  | .unknownKind kind tag p => some ⟨kind, tag, p⟩
  | .powerOn => none
  | .resetPin => none
  | .recordReceived _ => none
  | .interByteTimeout => none
  | .softResetTakesEffect => none
  | .recordSent => none
  | .linkHoldActive => none
  | .linkHoldInactive => none
  | .holderRemoved => none
  | .holderInserted => none
  | .homeEdge => none
  | .homeReleased => none
  | .homeStepLimit => none
  | .endEdge => none
  | .motorStep _ _ => none
  | .brakingStep _ => none
  | .holdTimerExpiry => none
  | .rampStepEnd => none
  | .watchdogExpiry => none
  | .lineComplete _ _ => none
  | .repairComplete => none
  | .warmupExpiry => none
  | .darkSettleEnd => none
  | .calLineTimer => none
  | .calLineComplete _ => none
  | .afeTransferComplete _ _ => none

/-- The command row that a good record is (R170, R196). -/
def rowOf (r : Record) : Instr :=
  match kindOf r.kind with
  | none => .unknownKind r.kind r.tag r.payload
  | some .identify => .identify r.tag r.payload
  | some .status => .status r.tag r.payload
  | some .softReset => .softReset r.tag r.payload
  | some .abort => .abort r.tag r.payload
  | some .setup => .setup r.tag r.payload
  | some .profile => .profile r.tag r.payload
  | some .formatRule => .formatRule r.tag r.payload
  | some .scanStart => .scanStart r.tag r.payload
  | some .mark => .mark r.tag r.payload
  | some .speedCap => .speedCap r.tag r.payload
  | some .lamp => .lamp r.tag r.payload
  | some .home => .home r.tag r.payload
  | some .move => .move r.tag r.payload
  | some .afeWrite => .afeWrite r.tag r.payload
  | some .afeRead => .afeRead r.tag r.payload
  | some .calRun => .calRun r.tag r.payload
  | some .calLoad => .calLoad r.tag r.payload
  | some .calRead => .calRead r.tag r.payload
  | some .causeEnable => .causeEnable r.tag r.payload
  | some .causeClear => .causeClear r.tag r.payload

end Sys2Proof.Machine
end

