-- ==== Sys2Proof/Machine/CommandRows.lean ====
section
/-! DEFINITION. The rows of the twenty commands. Each is a good record of its kind completing at the framer
(log 1): it enters the receive slot or is an overrun (R169), is dispatched (R170) to its `act…` definition
in Machine/Commands.lean through the four steps of R179, and is answered (R171). -/

namespace Sys2Proof.Machine

/-- IDENTIFY (R180). -/
def execIdentify (tag : Byte) (payload : List Byte) (s : State) : Host.Outcome State Fault Refusal :=
  .next (s.commandRow 0x01#8 tag payload)

/-- STATUS (R181). -/
def execStatus (tag : Byte) (payload : List Byte) (s : State) : Host.Outcome State Fault Refusal :=
  .next (s.commandRow 0x02#8 tag payload)

/-- SOFT_RESET (R177, R185). -/
def execSoftReset (tag : Byte) (payload : List Byte) (s : State) : Host.Outcome State Fault Refusal :=
  .next (s.commandRow 0x03#8 tag payload)

/-- ABORT (R155, R156). -/
def execAbort (tag : Byte) (payload : List Byte) (s : State) : Host.Outcome State Fault Refusal :=
  .next (s.commandRow 0x04#8 tag payload)

/-- SETUP (R182, R183). -/
def execSetup (tag : Byte) (payload : List Byte) (s : State) : Host.Outcome State Fault Refusal :=
  .next (s.commandRow 0x08#8 tag payload)

/-- PROFILE (R108). -/
def execProfile (tag : Byte) (payload : List Byte) (s : State) : Host.Outcome State Fault Refusal :=
  .next (s.commandRow 0x09#8 tag payload)

/-- FORMAT_RULE (R48). -/
def execFormatRule (tag : Byte) (payload : List Byte) (s : State) : Host.Outcome State Fault Refusal :=
  .next (s.commandRow 0x0A#8 tag payload)

/-- SCAN_START (R149, R150). -/
def execScanStart (tag : Byte) (payload : List Byte) (s : State) : Host.Outcome State Fault Refusal :=
  .next (s.commandRow 0x0B#8 tag payload)

/-- MARK (R161, R162). -/
def execMark (tag : Byte) (payload : List Byte) (s : State) : Host.Outcome State Fault Refusal :=
  .next (s.commandRow 0x0C#8 tag payload)

/-- SPEED_CAP (R134, R135). -/
def execSpeedCap (tag : Byte) (payload : List Byte) (s : State) : Host.Outcome State Fault Refusal :=
  .next (s.commandRow 0x0D#8 tag payload)

/-- LAMP (R16). -/
def execLamp (tag : Byte) (payload : List Byte) (s : State) : Host.Outcome State Fault Refusal :=
  .next (s.commandRow 0x10#8 tag payload)

/-- HOME (R132). -/
def execHome (tag : Byte) (payload : List Byte) (s : State) : Host.Outcome State Fault Refusal :=
  .next (s.commandRow 0x11#8 tag payload)

/-- MOVE (R133). -/
def execMove (tag : Byte) (payload : List Byte) (s : State) : Host.Outcome State Fault Refusal :=
  .next (s.commandRow 0x12#8 tag payload)

/-- AFE_WRITE (R18, R19). -/
def execAfeWrite (tag : Byte) (payload : List Byte) (s : State) : Host.Outcome State Fault Refusal :=
  .next (s.commandRow 0x14#8 tag payload)

/-- AFE_READ (R18, R19). -/
def execAfeRead (tag : Byte) (payload : List Byte) (s : State) : Host.Outcome State Fault Refusal :=
  .next (s.commandRow 0x15#8 tag payload)

/-- CAL_RUN (R8). -/
def execCalRun (tag : Byte) (payload : List Byte) (s : State) : Host.Outcome State Fault Refusal :=
  .next (s.commandRow 0x18#8 tag payload)

/-- CAL_LOAD (R14). -/
def execCalLoad (tag : Byte) (payload : List Byte) (s : State) : Host.Outcome State Fault Refusal :=
  .next (s.commandRow 0x19#8 tag payload)

/-- CAL_READ (R15). -/
def execCalRead (tag : Byte) (payload : List Byte) (s : State) : Host.Outcome State Fault Refusal :=
  .next (s.commandRow 0x1A#8 tag payload)

/-- CAUSE_ENABLE (R191). -/
def execCauseEnable (tag : Byte) (payload : List Byte) (s : State) : Host.Outcome State Fault Refusal :=
  .next (s.commandRow 0x1C#8 tag payload)

/-- CAUSE_CLEAR (R192). -/
def execCauseClear (tag : Byte) (payload : List Byte) (s : State) : Host.Outcome State Fault Refusal :=
  .next (s.commandRow 0x1D#8 tag payload)

end Sys2Proof.Machine
end

