-- ==== Sys2Proof/Machine/ImageRows.lean ====
section
/-! DEFINITION. The rows of the image path: pixels of a scan line, the watchdog, and a repair. -/

namespace Sys2Proof.Machine

/-- WATCHDOG_EXPIRY: the line in flight is late (R3). -/
def execWatchdogExpiry (s : State) : Host.Outcome State Fault Refusal :=
  .next (if s.cap.watchdog then s.lateLine.finish else s)

/-- LINE_COMPLETE: the pixels that complete a scan line (R2, R4; log 8, log 15). -/
def execLineComplete (dfdFirst : Bool) (pixels : List Pixel) (s : State) :
    Host.Outcome State Fault Refusal :=
  .next (s.pixelsArrive dfdFirst pixels).finish

/-- REPAIR_COMPLETE: the Repair Engine has finished its region (R98 to R101; log 14). -/
def execRepairComplete (s : State) : Host.Outcome State Fault Refusal :=
  .next (match s.rpe.current with
    | some e => (s.finishRepair e).finish
    | none => s)

end Sys2Proof.Machine
end

