-- ==== Sys2Proof/Machine/MotionEvents.lean ====
section
/-! DEFINITION. What the carriage does at each of its own events: a step interval, a braking interval, the
end of the hold, the end of a ramp step, and the edges of HOME and END (chapter 7). -/

namespace Sys2Proof.Machine

/-- The END input has become inactive before this row, if the row says so (R131, log 7). -/
def State.endFell (s : State) (released : Bool) : State :=
  if released then s.setPins { s.pins with endStop := false } else s

/-- One step of the motor in the direction of DIR: the position counts it, and it is a line-step (R128). -/
def State.stepOnce (s : State) : State :=
  (s.setTrc { s.trc with position := stepped s.trc.position s.trc.dir }).lineStep

/-- The line-step that reaches the resume position: the gate opens, the resume line starts, CRUISING; a
resume after a halt is one re-seek; PREPARING becomes SCANNING (R142, R151, R152). -/
def State.captureResume (s : State) : State :=
  let s1 := s.setTrc { s.trc with motion := .cruising, target := none }
  let s2 := s1.setCap { s1.cap with gateOpen := true }
  let s3 := if 0 < s.trc.resumeLine then
      s2.setScn { s2.scn with reseeks := min Config.maxHalf (s2.scn.reseeks + 1) } else s2
  let s4 := if s3.scn.op = .preparing then s3.setOp .scanning else s3
  s4.lineStep

/-- A step of a HOME move: counted; at 65,535 steps without the edge HOME fails (R132). -/
def State.homingStep (s : State) : State :=
  let s1 := s.stepOnce
  match s1.trc.homing with
  | some h =>
    let s2 := s1.setTrc { s1.trc with homing := some { h with steps := h.steps + 1 } }
    if Config.homingLimit ≤ h.steps + 1 then s2.homeFailed else s2
  | none => s1

/-- The position is the target of the motion (R133, R141). -/
def Trc.atTarget (t : Trc) : Bool := decide (t.target = some t.position.toNat)

/-- A step of a carriage that does not brake, by motion state (R129, R133, R141, R142). -/
def State.motionStep (s : State) : State :=
  match s.trc.motion with
  | .parked => s
  | .homing => s.homingStep
  | .moving =>
    let s1 := s.stepOnce
    if s1.trc.atTarget then s1.moveArrived else s1
  | .backtracking =>
    let s1 := s.stepOnce
    if s1.trc.atTarget then s1.beginApproach else s1
  | .approaching =>
    let s1 := s.setTrc { s.trc with position := stepped s.trc.position s.trc.dir }
    if s1.trc.position.toNat = s1.trc.resumePos then s1.captureResume else s1.lineStep
  | .cruising => s.stepOnce

/-- A motion that would need a step beyond the position range ends where it stands; a carriage that
cruises there issues no step (R128, log 13). -/
def State.rangeEnd (s : State) : State :=
  match s.trc.motion with
  | .moving => s.moveArrived
  | .backtracking => s.stopEvent
  | .approaching => s.stopEvent
  | .parked => s
  | .homing => s
  | .cruising => s

/-- The interval that begins after a step of a carriage still moving (R129, R138). -/
def State.startInterval (s : State) (elapsed : Nat) : State :=
  if s.trc.braking || decide (s.trc.motion = .parked) then s
  else s.setTrc { s.trc with interval := s.trc.nextInterval s.setup.lp elapsed }

/-- The HOME edge of a HOME move: the carriage stops at once, the position is 0 and VALID, the move is
complete (R132). -/
def State.homeArrives (s : State) : State :=
  let s1 := s.stopAtOnce
  (s1.setTrc { s1.trc with position := 0, valid := true }).moveComplete

/-- A step interval expires (R128, R129, R131, R142). -/
def State.intervalExpires (s : State) (elapsed : Nat) : State :=
  if s.trc.braking || decide (s.trc.motion = .parked) then s
  else if s.trc.motion = .approaching ∧ s.trc.position.toNat = s.trc.resumePos then
    s.captureResume.startInterval elapsed
  else if s.trc.dir = .forward ∧ s.pins.endStop then s.endStopAct
  else if !s.trc.canStep s.trc.dir then s.rangeEnd
  else s.motionStep.startInterval elapsed

/-- A braking interval expires: a braking step, or the stop where none can be issued; the last one gives
the stop event, and each later interval is twice the one before (R130, R131). -/
def State.brakingExpires (s : State) : State :=
  if !s.trc.braking then s
  else if s.trc.dir = .forward ∧ s.pins.endStop then s.endStopAct
  else if !s.trc.canStep s.trc.dir then s.stopEvent
  else
    let s1 := s.stepOnce
    let s2 := s1.setTrc { s1.trc with
      brakesLeft := s1.trc.brakesLeft - 1
      interval := 2 * s1.trc.interval }
    if s2.trc.brakesLeft = 0 ∨ s2.trc.canStep s2.trc.dir = false then s2.stopEvent else s2

/-- The hold timer reaches 50 ms: a raise ramp while the carriage runs at a grade; the backtrack when it
stands in a halt; noted when it still brakes (R139, R141). -/
def State.holdExpires (s : State) : State :=
  if !s.trc.hold then s
  else
    let s1 := s.setTrc { s.trc with hold := false }
    if s.trc.graded && !s.trc.braking then s1.setTrc { s1.trc with ramp := some s.trc.resolved }
    else if !s.trc.scanOn then s1
    else if s.trc.braking then s1.setTrc { s1.trc with holdDone := true }
    else if s.trc.motion = .parked ∧ s.trc.resolved ≠ .s0 then s1.beginBacktrack
    else s1

/-- What follows at the end of a ramp: a lowering ramp, the hold, or nothing (R140). -/
def Trc.afterRamp (t : Trc) : Trc :=
  if t.resolved.num < t.current.num then { t with ramp := some t.resolved }
  else if t.current.num < t.resolved.num then { t with hold := true }
  else t

/-- A ramp step ends: the current grade moves one grade toward the target, and at the target the ramp ends
(R138 to R140). -/
def Trc.rampStepEnds (t : Trc) : Trc :=
  match t.ramp with
  | none => t
  | some target =>
    let t1 := { t with current := t.current.toward target }
    if t1.current = target then ({ t1 with ramp := none } : Trc).afterRamp else t1

/-- The HOME input becomes active; only a HOME move that seeks it acts (R132). -/
def State.homeRises (s : State) : State :=
  let s1 := s.setPins { s.pins with home := true }
  if s.seeksEdge then s1.homeArrives else s1

/-- The HOME input becomes inactive; a HOME move that leaves the stop turns to seek it (R132). -/
def State.homeFalls (s : State) : State :=
  let s1 := s.setPins { s.pins with home := false }
  match s.trc.homing with
  | some ⟨.leaving, n⟩ =>
    if s.trc.motion = .homing ∧ s.trc.braking = false then
      s1.setTrc { s1.trc with homing := some ⟨.seeking, n⟩, dir := .backward }
    else s1
  | _ => s1

/-- The END input becomes active; it acts while the carriage moves or brakes (R131). -/
def State.endRises (s : State) : State :=
  let s1 := s.setPins { s.pins with endStop := true }
  if s.trc.standing then s1 else s1.endStopAct

/-- The step of a HOME move that is its 65,535th, when the move is that far (R132, log 17). -/
def State.homeLimit (s : State) : State :=
  match s.trc.homing with
  | some h =>
    if s.trc.motion = .homing ∧ s.trc.braking = false ∧ Config.homingLimit ≤ h.steps + 1 then
      if Config.homingLimit ≤ h.steps then s.homeFailed else s.intervalExpires 0
    else s
  | none => s

end Sys2Proof.Machine
end

