-- ==== Sys2Proof/Machine/InputRows.lean ====
section
/-! DEFINITION. The rows of the input pins: the holder, HOME with its step limit, and END. -/

namespace Sys2Proof.Machine

/-- The HOLDER input becomes inactive: HOLDER_OUT follows it in every state, and a scan in progress ends
with reason HOLDER (R157, R189). -/
def State.holderLeaves (s : State) : State :=
  if s.pins.holder then
    let s1 := (s.setPins { s.pins with holder := false }).raise .holderOut
    if s.scanRuns then s1.stopScan .holder else s1
  else s

/-- HOLDER_REMOVED (R157, R189). -/
def execHolderRemoved (s : State) : Host.Outcome State Fault Refusal := .next s.holderLeaves.finish

/-- HOLDER_INSERTED: the condition of HOLDER_OUT ends; nothing else acts on it (R157, R189). -/
def execHolderInserted (s : State) : Host.Outcome State Fault Refusal :=
  .next (s.setPins { s.pins with holder := true })

/-- HOME_EDGE (R132). -/
def execHomeEdge (s : State) : Host.Outcome State Fault Refusal := .next s.homeRises.finish

/-- HOME_RELEASED (R132). -/
def execHomeReleased (s : State) : Host.Outcome State Fault Refusal := .next s.homeFalls.finish

/-- HOME_STEP_LIMIT (R132, R159; log 17). -/
def execHomeStepLimit (s : State) : Host.Outcome State Fault Refusal := .next s.homeLimit.finish

/-- END_EDGE (R131, R158, R159). -/
def execEndEdge (s : State) : Host.Outcome State Fault Refusal := .next s.endRises.finish

end Sys2Proof.Machine
end

