-- ==== Sys2Proof/Machine/LinkRows.lean ====
section
/-! DEFINITION. The rows of the Record Link: bytes that arrive, the inter-byte timer, a record of an
unknown kind, records sent, and LINK_HOLD. -/

namespace Sys2Proof.Machine

/-- RECORD_RECEIVED: the framer takes the bytes one at a time (R167 to R170). -/
def execRecordReceived (bytes : List Byte) (s : State) : Host.Outcome State Fault Refusal :=
  .next (s.takeBytes bytes)

/-- INTER_BYTE_TIMEOUT: the record being received is discarded with TIMEOUT (R168). -/
def execInterByteTimeout (s : State) : Host.Outcome State Fault Refusal :=
  .next (if s.lif.framer.timed then s.linkError .timeout else s)

/-- UNKNOWN_KIND: a good record of a kind that is no command's acts on nothing and is answered (R170). -/
def execUnknownKind (kind tag : Byte) (payload : List Byte) (s : State) :
    Host.Outcome State Fault Refusal :=
  .next (s.commandRow kind tag payload)

/-- RECORD_SENT: the last byte of the record being sent has gone (R175, R177). -/
def execRecordSent (s : State) : Host.Outcome State Fault Refusal := .next s.recordEnds

/-- LINK_HOLD becomes active: a record being sent is completed and none follows (R176). -/
def execLinkHoldActive (s : State) : Host.Outcome State Fault Refusal :=
  .next (s.setPins { s.pins with linkHold := true })

/-- LINK_HOLD becomes inactive: the arbiter chooses at once (R176). -/
def execLinkHoldInactive (s : State) : Host.Outcome State Fault Refusal :=
  .next (if s.pins.linkHold then (s.setPins { s.pins with linkHold := false }).arbitrate else s)

end Sys2Proof.Machine
end

