-- ==== Sys2Proof/Machine/Resets.lean ====
section
/-! DEFINITION. The rows that reset the device: POWER_ON, RESET_PIN, SOFT_RESET_TAKES_EFFECT. -/

namespace Sys2Proof.Machine

/-- POWER_ON: every block takes its power-on values; the levels of the input pins are the outside world's
(R20, R35, R60, R85, R107, R127, R147, R165, R178, R193; log 5). -/
def execPowerOn (s : State) : Host.Outcome State Fault Refusal := .next (State.powerOn s.pins s.pending)

/-- RESET_PIN: every block takes its power-on values at once, cutting any record or transfer (R20, R165,
R178, R193; log 6). -/
def execResetPin (s : State) : Host.Outcome State Fault Refusal := .next (State.powerOn s.pins s.pending)

/-- SOFT_RESET_TAKES_EFFECT: the last byte of the SOFT_RESET reply has been sent (R177, R185; log 16). -/
def execSoftResetTakesEffect (s : State) : Host.Outcome State Fault Refusal :=
  .next (if s.sendsResetReply then s.softReset else s)

end Sys2Proof.Machine
end

