-- ==== Sys2Proof/Machine/TransportRows.lean ====
section
/-! DEFINITION. The rows of the Transport Controller's intervals and timers. -/

namespace Sys2Proof.Machine

/-- MOTOR_STEP: the step interval expires (R128, R129, R131 to R133, R141, R142). -/
def execMotorStep (endReleased : Bool) (elapsed : Nat) (s : State) : Host.Outcome State Fault Refusal :=
  .next (((s.endFell endReleased).intervalExpires elapsed).finish)

/-- BRAKING_STEP: a braking interval expires (R130, R131). -/
def execBrakingStep (endReleased : Bool) (s : State) : Host.Outcome State Fault Refusal :=
  .next ((s.endFell endReleased).brakingExpires.finish)

/-- HOLD_TIMER_EXPIRY: the 50 ms hold ends (R139, R141). -/
def execHoldTimerExpiry (s : State) : Host.Outcome State Fault Refusal := .next s.holdExpires.finish

/-- RAMP_STEP_END: a 40 ms ramp step ends (R138 to R140). -/
def execRampStepEnd (s : State) : Host.Outcome State Fault Refusal :=
  .next (s.setTrc s.trc.rampStepEnds).finish

end Sys2Proof.Machine
end

