-- ==== Sys2Proof/Machine/Dispatch.lean ====
section
/-! DEFINITION. The meaning of every command: one arm per row of spec/opcode_table.json. -/

namespace Sys2Proof.Machine

open Sys2Proof

/-- What a command does to everything but the queue. -/
def exec (i : Instr) (s : State) : Host.Outcome State Fault Refusal :=
  match i with
  | .powerOn => Sys2Proof.Machine.execPowerOn s
  | .resetPin => Sys2Proof.Machine.execResetPin s
  | .recordReceived bytes => Sys2Proof.Machine.execRecordReceived bytes s
  | .interByteTimeout => Sys2Proof.Machine.execInterByteTimeout s
  | .identify tag payload => Sys2Proof.Machine.execIdentify tag payload s
  | .status tag payload => Sys2Proof.Machine.execStatus tag payload s
  | .softReset tag payload => Sys2Proof.Machine.execSoftReset tag payload s
  | .softResetTakesEffect => Sys2Proof.Machine.execSoftResetTakesEffect s
  | .abort tag payload => Sys2Proof.Machine.execAbort tag payload s
  | .setup tag payload => Sys2Proof.Machine.execSetup tag payload s
  | .profile tag payload => Sys2Proof.Machine.execProfile tag payload s
  | .formatRule tag payload => Sys2Proof.Machine.execFormatRule tag payload s
  | .scanStart tag payload => Sys2Proof.Machine.execScanStart tag payload s
  | .mark tag payload => Sys2Proof.Machine.execMark tag payload s
  | .speedCap tag payload => Sys2Proof.Machine.execSpeedCap tag payload s
  | .lamp tag payload => Sys2Proof.Machine.execLamp tag payload s
  | .home tag payload => Sys2Proof.Machine.execHome tag payload s
  | .move tag payload => Sys2Proof.Machine.execMove tag payload s
  | .afeWrite tag payload => Sys2Proof.Machine.execAfeWrite tag payload s
  | .afeRead tag payload => Sys2Proof.Machine.execAfeRead tag payload s
  | .calRun tag payload => Sys2Proof.Machine.execCalRun tag payload s
  | .calLoad tag payload => Sys2Proof.Machine.execCalLoad tag payload s
  | .calRead tag payload => Sys2Proof.Machine.execCalRead tag payload s
  | .causeEnable tag payload => Sys2Proof.Machine.execCauseEnable tag payload s
  | .causeClear tag payload => Sys2Proof.Machine.execCauseClear tag payload s
  | .unknownKind kind tag payload => Sys2Proof.Machine.execUnknownKind kind tag payload s
  | .recordSent => Sys2Proof.Machine.execRecordSent s
  | .linkHoldActive => Sys2Proof.Machine.execLinkHoldActive s
  | .linkHoldInactive => Sys2Proof.Machine.execLinkHoldInactive s
  | .holderRemoved => Sys2Proof.Machine.execHolderRemoved s
  | .holderInserted => Sys2Proof.Machine.execHolderInserted s
  | .homeEdge => Sys2Proof.Machine.execHomeEdge s
  | .homeReleased => Sys2Proof.Machine.execHomeReleased s
  | .homeStepLimit => Sys2Proof.Machine.execHomeStepLimit s
  | .endEdge => Sys2Proof.Machine.execEndEdge s
  | .motorStep endReleased elapsed => Sys2Proof.Machine.execMotorStep endReleased elapsed s
  | .brakingStep endReleased => Sys2Proof.Machine.execBrakingStep endReleased s
  | .holdTimerExpiry => Sys2Proof.Machine.execHoldTimerExpiry s
  | .rampStepEnd => Sys2Proof.Machine.execRampStepEnd s
  | .watchdogExpiry => Sys2Proof.Machine.execWatchdogExpiry s
  | .lineComplete dfdFirst pixels => Sys2Proof.Machine.execLineComplete dfdFirst pixels s
  | .repairComplete => Sys2Proof.Machine.execRepairComplete s
  | .warmupExpiry => Sys2Proof.Machine.execWarmupExpiry s
  | .darkSettleEnd => Sys2Proof.Machine.execDarkSettleEnd s
  | .calLineTimer => Sys2Proof.Machine.execCalLineTimer s
  | .calLineComplete pixels => Sys2Proof.Machine.execCalLineComplete pixels s
  | .afeTransferComplete nack data => Sys2Proof.Machine.execAfeTransferComplete nack data s

end Sys2Proof.Machine
end

