-- ==== Sys2Proof/Safety.lean ====
section
/-! DEFINITION. What counts as a safe state of the CV2640, and the words in which the statements about it
are made: capacities kept, tables canonical, a setup in range, a carriage that captures only where it may,
and how a reply leaves. -/

namespace Sys2Proof.Machine

/-! ## Ranges and capacities -/

/-- Every field of a setup lies in the range of the table in section 10.3. -/
structure SetupInRange (u : Setup) : Prop where
  p0 : u.p0 ≤ 65535
  n : 1 ≤ u.n ∧ u.n ≤ 60000
  w : 64 ≤ u.w ∧ u.w ≤ 8192 ∧ u.w % 16 = 0
  window : u.wl < u.wr ∧ u.wr < u.w ∧ 64 ≤ u.wr + 1 - u.wl
  lp : 250 ≤ u.lp ∧ u.lp ≤ 20000
  bases : (256 ≤ u.baseR ∧ u.baseR ≤ 65535) ∧ (256 ≤ u.baseG ∧ u.baseG ≤ 65535) ∧
    (256 ≤ u.baseIR ∧ u.baseIR ≤ 65535)
  gl : 128 ≤ u.gl ∧ u.gl ≤ 255
  il : 64 ≤ u.il ∧ u.il + 8 ≤ u.gl
  gapMin : 1 ≤ u.gapMin ∧ u.gapMin ≤ 32
  imageMin : 1 ≤ u.imageMin ∧ u.imageMin ≤ 32
  mfl : 64 ≤ u.mfl ∧ u.mfl ≤ 16384
  edge : 64 ≤ u.edge ∧ u.edge ≤ 255
  t : 32 ≤ u.t ∧ u.t ≤ 240
  d : u.d ≤ 7
  k : u.k ≤ 255
  afeAddress : u.afeAddress ≤ 127
  together : u.p0 + u.n ≤ 65536

/-- The queues hold no more than their capacities, the wait list holds no producer twice, a transfer on the
Front-End Control Port keeps its command in the slot with room for its reply, the calibration tables are
canonical and the setup in force is in range (R19, R20, R123, R161, R169, R171 to R173, R182). -/
structure WithinLimits (s : State) : Prop where
  replies : s.lif.replies.length ≤ Config.replyCapacity
  reports : s.lif.reports.length ≤ Config.reportCapacity
  waitList : s.lif.waitList.Nodup
  markers : s.scn.markers.length ≤ Config.markerCapacity
  rows : s.coe.rows.length ≤ Config.previewCapacity
  transfer : s.cap.afe ≠ none → s.lif.slot ≠ none ∧ s.lif.replies.length < Config.replyCapacity
  tables : s.cap.tablesWf = true
  setup : SetupInRange s.scn.setup

/-! ## Capture and the ring -/

/-- The operation states in which the ring, the tables and the queue are empty (R148): every one but
SCANNING and DRAINING. -/
def OpState.holdsNoLines : OpState → Bool
  | .scanning => false
  | .draining => false
  | .idle | .positioning | .calibrating | .preparing | .stopping | .faulted => true

/-- Capture and the ring are safe: the ring holds at most 128 lines and its demand follows from how many
(R21, R30); capture is open only in SCANNING, while the carriage cruises in scan transport with no demand at
S0 (R1, R135, R136); a backtrack or approach runs only in scan transport with no demand at S0 (R137, R141);
a line in flight in a scan always finds room in the ring (R4); lines stand in the ring only in SCANNING and
DRAINING (R148). The last four fields are what makes this hold from row to row: scan transport, a drain that
is over, and a calibration run belong to their operation states. -/
structure CaptureSafe (s : State) : Prop where
  capacity : s.rng.lines.length ≤ Config.ringCapacity
  demand : s.trc.ring = ringGrade s.rng.lines.length
  gate : s.cap.gateOpen = true →
    s.scn.op = .scanning ∧ s.trc.motion = .cruising ∧ s.trc.braking = false ∧ s.trc.scanOn = true ∧
      s.trc.resolved ≠ .s0
  run : s.trc.motion = .approaching ∨ s.trc.motion = .backtracking → s.trc.braking = false →
    s.trc.scanOn = true ∧ s.trc.resolved ≠ .s0
  flight : s.scn.op = .scanning → s.cap.inFlight ≠ none → s.rng.lines.length < Config.ringCapacity
  empty : s.scn.op.holdsNoLines = true → s.rng.lines = []
  transport : s.trc.scanOn = true → s.scn.op = .preparing ∨ s.scn.op = .scanning
  ended : .scanEnd ∈ s.scn.due ∨ s.scn.drain.ringEmpty = true →
    s.scn.op ≠ .preparing ∧ s.scn.op ≠ .scanning ∧ s.rng.lines = []
  calRun : s.cap.cal ≠ none → s.scn.op = .positioning ∨ s.scn.op = .calibrating
  calTimer : s.cap.calTimer = true → s.cap.cal ≠ none

/-! ## The tables of a scan -/

/-- The numbers of the numbered frames of the Frame Table, in table order (R42, R47). -/
def Frd.numbers (c : Frd) : List Nat := c.table.filterMap fun f => f.probed.map (·.number)

/-- The tables of a scan are in order: at most 8 frames, with numbers that rise and lie below the next number,
and the table's demand follows from how many there are (R42, R47, R55); at most 64 regions in distinct slots, in
increasing slot order, none taller than 64 raw lines (R71, R76); the lines of the ring numbered one after another
(R21, R22); frames stand only in SCANNING and DRAINING (R148). The other fields are what makes this hold from row
to row: a line in flight finds room for a frame, it is the one that follows the newest line, and a drain whose
frames are gone, or that is over, holds none. -/
structure TablesInOrder (s : State) : Prop where
  frameCount : s.frd.table.length ≤ Config.frameCapacity
  frameDemand : s.trc.table = tableGrade s.frd.table.length
  frameRoom : s.scn.op = .scanning → s.cap.inFlight ≠ none → s.frd.table.length < Config.frameCapacity
  numbers : s.frd.numbers.Pairwise (· < ·)
  nextNumber : ∀ n ∈ s.frd.numbers, n < s.frd.nextNumber
  noFrames : s.scn.op.holdsNoLines = true → s.frd.table = []
  ended : .scanEnd ∈ s.scn.due ∨ s.scn.drain.framesEmpty = true →
    s.scn.op ≠ .preparing ∧ s.scn.op ≠ .scanning ∧ s.frd.table = []
  regionCount : s.dfd.regions.length ≤ Config.regionCapacity
  slots : s.dfd.regions.Pairwise fun a b => a.slot < b.slot
  regions : ∀ r ∈ s.dfd.regions, r.slot < Config.regionCapacity ∧ r.last + 1 - r.first ≤ Config.maxRegionHeight
  lines : s.rng.lines.IsChain fun a b => b.number = a.number + 1
  newest : s.scn.op = .scanning → ∀ l, s.rng.lines.getLast? = some l →
    l.number + 1 = ((s.cap.inFlight.map (·.number)).getD s.cap.nextLine)
  flight : s.scn.op = .scanning → ∀ f, s.cap.inFlight = some f → f.number + 1 = s.cap.nextLine

/-! ## What the image path is told by -/

/-- A line may leave the ring: the holdback is lifted or 48 lines are newer, no frame needs the line, and no
region's window contains it (R25 to R28). -/
structure MayLeave (s : State) (line : Nat) : Prop where
  holdback : s.scn.op = .draining ∨
    s.scn.op = .scanning ∧ ∃ newest, s.rng.lines.getLast? = some newest ∧ line + 48 ≤ newest.number
  tentative : ∀ f ∈ s.frd.table, f.probed = none → line < f.top - f.profile.mt
  opened : ∀ f ∈ s.frd.table, ∀ p, f.probed = some p → f.closed = none → p.rejected = false ∨ p.passed = true →
    line < p.nextRow
  closed : ∀ f ∈ s.frd.table, ∀ p c, f.probed = some p → f.closed = some c →
    p.rejected = false ∨ p.passed = true → line < p.nextRow ∨ c.lastRow < line
  regions : ∀ r ∈ s.dfd.regions, line < r.first - s.scn.setup.d - 16 ∨
    min (s.scn.setup.n - 1) (r.last + s.scn.setup.d + 16) < line

/-- The row range of a frame contains a line (R56). -/
def Frame.containsRow (f : Frame) (line : Nat) : Prop :=
  f.top - f.profile.mt ≤ line ∧ ∀ c, f.closed = some c → line ≤ c.lastRow

/-- What a charge at a line leaves of the Frame Detector: the oldest live frame whose row range contains the
line takes it, else the outside tally does (R56, R57). -/
structure Charged (c d : Frd) (line : Nat) (add : Tally → Tally) : Prop where
  frame : ∀ before f after, c.table = before ++ f :: after → (∀ g ∈ before, ¬g.containsRow line) →
    f.containsRow line → d = { c with table := before ++ { f with tally := add f.tally } :: after }
  outside : (∀ g ∈ c.table, ¬g.containsRow line) → d = { c with outside := add c.outside }

/-! ## Records on their way out -/

/-- The record being sent and the replies behind it, in the order in which they leave (R171, R175). -/
def State.outgoing (s : State) : List Record := s.lif.tx.toList ++ s.lif.replies

/-- The link can dispatch a command at its arrival: the slot is empty, the reply queue has room, no transfer
and no reset holds the slot (R169, R170, R177). -/
structure Ready (s : State) : Prop where
  slot : s.lif.slot = none
  room : s.lif.replies.length < Config.replyCapacity
  noReset : s.lif.resetPending = false
  noTransfer : s.cap.afe = none

/-- From `u`, a reply and nothing else has been added to what leaves, the framer hunts and the slot is
empty: `t` differs from `u` in nothing but these (R167, R169, R171, R175). -/
def Replied (u t : State) (reply : Record) : Prop :=
  t = u.setLif { u.lif with
    framer := .hunt
    slot := none
    replies := t.lif.replies
    tx := t.lif.tx } ∧
  t.outgoing = u.outgoing ++ [reply]

/-- The arbiter chooses nothing now: a record is being sent, or LINK_HOLD is active (R175, R176). -/
def State.arbiterWaits (s : State) : Bool := s.lif.tx.isSome || s.pins.linkHold

/-- The arbiter has nothing to choose: it waits, or no reply is queued and no other record is available or
allowed (R175, R177). -/
def State.atRest (s : State) : Prop :=
  s.arbiterWaits = true ∨
  (s.lif.replies = [] ∧
    (s.lif.resetPending = true ∨
      (s.lif.noticeDue = false ∧ s.lif.reports = [] ∧ s.takeImage = none ∧ s.takePreview = none)))

/-- Nothing in the device waits to react, and the arbiter has nothing to choose: what a row leaves behind
once it is over (R154, R160, R162, R173, R175). -/
structure Quiet (s : State) : Prop where
  settled : s.settleStep = none
  rest : s.atRest

/-- The operation states that wait for nothing: no drain and no stop is being settled (R154, R160). -/
def OpState.plain : OpState → Bool
  | .draining => false
  | .stopping => false
  | .idle | .positioning | .calibrating | .preparing | .scanning | .faulted => true

/-! ## Scans that end early -/

/-- From `s`, the scan's part of every block is cleared in `u`: line capture ended, ring, tables, queue,
output and preview emptied, the live frames counted as abandoned, the carriage out of scan transport and
braking or PARKED where it stood, the reports of the Frame Detector and of the Crop Output Engine that waited
dropped; tables, rules, profiles, lamp, setup, counts, pins and the rest of the link but the notice slot kept
(R59, R126, R155, R173; the settled limit and the preview offset, which R126 does not name, at 0 are log 34). -/
structure ScanCleared (s u : State) : Prop where
  cap : u.cap = { s.cap with gateOpen := false, inFlight := none, watchdog := false }
  rng : u.rng.lines = []
  frd : u.frd = { s.frd with
    table := [], waiting := [], classifier := .gap, imageRun := 0, gapRun := 0, probe := [] }
  dfd : u.dfd = { s.dfd with history := [], regions := [] }
  rpe : u.rpe = ⟨[], none, 0, 0⟩
  coe : u.coe = { s.coe with
    step := .idle, frame := none, segOffset := 0, settled := 0, boxes := [], lineCount := 0,
    rowIndex := 0, rows := [], previewOffset := 0, previewDone := true }
  carriage : u.trc.scanOn = false ∧ u.trc.target = none ∧ u.trc.ramp = none ∧ u.trc.hold = false ∧
    u.trc.current = .s0 ∧ u.trc.position = s.trc.position ∧ u.trc.valid = s.trc.valid
  brakes : u.trc.braking = true ∨ u.trc.motion = .parked
  demands : u.trc.ring = .s3 ∧ u.trc.repair = .s3 ∧ u.trc.table = .s3 ∧ u.trc.cap = s.trc.cap
  counts : u.scn.abandoned = s.frd.table.length ∧ u.scn.captured = s.scn.captured ∧
    u.scn.frames = s.scn.frames ∧ u.scn.slivers = s.scn.slivers ∧ u.scn.reseeks = s.scn.reseeks ∧
    u.scn.setup = s.scn.setup
  link : ∃ due, u.lif = { s.lif with
    waitList := s.lif.waitList.filter fun p => p ≠ .frd ∧ p ≠ .coe, noticeDue := due }
  pins : u.pins.home = s.pins.home ∧ u.pins.linkHold = s.pins.linkHold

/-- The markers of a queue once a stop has reached them: those not yet reached have both flags set (R155,
R162). -/
def abortedMarkers (markers : List Marker) : List Marker :=
  markers.map fun m => if m.reached then m else { m with reached := true, aborted := true }

/-- The MARK_REACHED of every marker that a stop reaches (R155, R163). -/
def abortedReports (markers : List Marker) : List ScnReport :=
  (markers.filter fun m => !m.reached).map fun _ => .markReached

/-- What the early end of a calibration run leaves besides what `u` holds: no line in flight, no timer, no run,
the tables and the flag as they were, and a CAL_DONE with the outcome and weak counts of 0 in the report queue
(R13, R199). -/
def afterEarlyEnd (s : State) (run : CalRun) (outcome : CalOutcome) (u : State) : State :=
  (u.setCap { s.cap with
    gateOpen := false
    inFlight := none
    watchdog := false
    calTimer := false
    cal := none
    report := none }).setLif { u.lif with
      reports := u.lif.reports ++ [⟨0x44#8, 0#8, [outcome.code, byte run.lines] ++ le16 run.target ++
        [0#8, 0#8, 0#8, 0#8, 0#8, 0#8, 0#8, 0#8, flagByte s.cap.valid]⟩] }

/-- The queue of waiting reports has room and no producer waits: a report that becomes due enters at once
(R173). -/
def State.reportsOpen (s : State) : Bool :=
  decide (s.lif.reports.length < Config.reportCapacity) && decide (s.lif.waitList = [])

end Sys2Proof.Machine
end

