-- ==== Sys2Proof/Certificates/Slice0/Obligations.lean ====
section
/-! DEFINITION. The statements for the provers: what the rows of spec/opcode_table.json do by the rules of
spec/, row by row and for the device as a whole. A model's choice that a statement rests on is named in its
docstring by its log entry. -/

open Sys2Proof Sys2Proof.Machine

/-! ## The queue of commands -/

/-- A step takes the command at the front of the queue and is `exec` of it with the queue's rest; on an
empty queue the block idles (logs 1, 2). -/
def Obligations.StepRunsFrontCommand : Prop :=
  (∀ (c : Instr) (rest : List Instr) (s : State), s.pending = c :: rest →
    step s = exec c (s.setPending rest)) ∧
  (∀ s : State, s.pending = [] → step s = .next s)

/-- No row faults or is refused, and none touches the queue of the rows that wait. That every row has an effect in
every state is the model's choice: a row whose event cannot come in a state changes nothing there (log 3). -/
def Obligations.EveryRowAnswersNextAndKeepsTheQueue : Prop :=
  ∀ (c : Instr) (s : State), ∃ t, exec c s = .next t ∧ t.pending = s.pending

/-! ## Records on the link -/

/-- A record sent byte by byte to a hunting framer is its command row: kind, tag, length, payload and check
are all read back as they were framed (R166, R167; that a command row is a good record is log 1). -/
def Obligations.RecordOnTheWireIsItsRow : Prop :=
  ∀ (r : Record) (s : State), s.lif.framer = .hunt → r.payload.length ≤ 1024 →
    exec (.recordReceived (recordBytes r)) s = exec (rowOf r) s

/-- One byte at the framer, by its state, up to the compare of the check (R167). -/
def Obligations.FramerFollowsTable : Prop :=
  ∀ (s : State) (b : Byte),
    (s.lif.framer = .hunt → exec (.recordReceived [b]) s =
      .next (if b = 0xC5#8 then s.setFramer .sync else s)) ∧
    (s.lif.framer = .sync → exec (.recordReceived [b]) s =
      .next (if b = 0x5C#8 then s.setFramer (.header [] 0xFFFF#16) else
        if b = 0xC5#8 then s else s.setFramer .hunt)) ∧
    (∀ (bs : List Byte) (c : Half), s.lif.framer = .header bs c → bs.length < 3 →
      exec (.recordReceived [b]) s = .next (s.setFramer (.header (bs ++ [b]) (crcByte c b)))) ∧
    (∀ (k t lo : Byte) (c : Half), s.lif.framer = .header [k, t, lo] c →
      lo.toNat + 256 * b.toNat ≤ 1024 →
      exec (.recordReceived [b]) s = .next (s.setFramer (
        if lo.toNat + 256 * b.toNat = 0 then .check ⟨k, t, []⟩ (crcByte c b) none
        else .payload k t (lo.toNat + 256 * b.toNat) [] (crcByte c b)))) ∧
    (∀ (k t : Byte) (n : Nat) (bs : List Byte) (c : Half), s.lif.framer = .payload k t n bs c →
      exec (.recordReceived [b]) s = .next (s.setFramer (
        if n ≤ bs.length + 1 then .check ⟨k, t, bs ++ [b]⟩ (crcByte c b) none
        else .payload k t n (bs ++ [b]) (crcByte c b)))) ∧
    (∀ (r : Record) (c : Half), s.lif.framer = .check r c none →
      exec (.recordReceived [b]) s = .next (s.setFramer (.check r c (some b))))

/-- What a receive error leaves: the framer hunts, the kind of the error is the last link error and
LINK_ERROR is raised; nothing else changes but what the arbiter then chooses (R167, R168, R175). An
INTER_BYTE_TIMEOUT while no record is being received changes nothing, which is the model's choice (log 3). -/
def Obligations.ReceiveErrorsDiscard : Prop :=
  ∀ s : State,
    (∀ (k t lo hi : Byte) (c : Half), s.lif.framer = .header [k, t, lo] c →
      1024 < lo.toNat + 256 * hi.toNat →
      exec (.recordReceived [hi]) s = .next
        ((s.setLif { s.lif with framer := .hunt, lastError := .length }).raise .linkError).arbitrate) ∧
    (∀ (r : Record) (c : Half) (hi lo : Byte), s.lif.framer = .check r c (some hi) →
      hi.toNat * 256 + lo.toNat ≠ c.toNat →
      exec (.recordReceived [lo]) s = .next
        ((s.setLif { s.lif with framer := .hunt, lastError := .crc }).raise .linkError).arbitrate) ∧
    (s.lif.framer ≠ .hunt → s.lif.framer ≠ .sync →
      exec .interByteTimeout s = .next
        ((s.setLif { s.lif with framer := .hunt, lastError := .timeout }).raise .linkError).arbitrate) ∧
    (s.lif.framer = .hunt ∨ s.lif.framer = .sync → exec .interByteTimeout s = .next s)

/-- A good record that meets an occupied slot is discarded, and RX_OVERRUN is raised; the record in the slot
stays, the last link error is not changed, and there is no reply (R169, R175). -/
def Obligations.OverrunKeepsTheSlot : Prop :=
  ∀ (c : Instr) (r : Record) (s : State), recordOf c = some r → r.payload.length ≤ 1024 →
    s.lif.slot ≠ none → s.arbiterWaits = true →
    exec c s = .next ((s.setLif { s.lif with framer := .hunt }).raise .rxOverrun)

/-- A good record waits in the slot while the reply queue is full; it is dispatched, against the state
standing then, when the arbiter takes a reply, and its own reply joins the tail of the queue and frees the
slot (R169 to R171). -/
def Obligations.FullReplyQueueHoldsTheCommand : Prop :=
  (∀ (c : Instr) (r : Record) (s : State), recordOf c = some r → r.payload.length ≤ 1024 →
    s.lif.slot = none → s.lif.replies.length = 4 → s.arbiterWaits = true →
    exec c s = .next (s.setLif { s.lif with framer := .hunt, slot := some r })) ∧
  (∀ (s : State) (x r0 r : Record) (rest : List Record) (p : List Byte) (u : State),
    s.lif.tx = some x → s.pins.linkHold = false → s.lif.resetPending = false → s.cap.afe = none →
    s.lif.replies = r0 :: rest → rest.length < 4 → s.lif.slot = some r →
    (s.setLif { s.lif with replies := rest, tx := some r0 }).judgeRecord r = ⟨u, some p⟩ →
    u.lif.resetPending = false →
    exec .recordSent s = .next (u.setLif { u.lif with
      slot := none
      replies := rest ++ [⟨replyKind r.kind, r.tag, p⟩] }))

/-- At the end of a record the arbiter takes the first that is available: a reply, then, unless a reset is
pending, a NOTICE whose set is not empty, a report, an IMAGE record, a PREVIEW record, or nothing. The room that
a report leaves goes to the head of the wait list: that producer places its oldest report, leaves the list, and
rejoins at the tail if it holds more. A producer's report enters at once while the queue has room and no
producer waits; else the producer joins the tail once (R172 to R175, R177). Before that a row settles what it has
caused: the Crop Output Engine's next step first, then a marker newly reached, then a condition of the drain, one
after another until nothing is left (R115, R117, R120, R125, R154, R162); this order within a row, and the order in
which reports that are due together are offered, are log 9. -/
def Obligations.ArbiterTakesTheFirstAvailable : Prop :=
  (∀ (s : State) (x : Record), s.lif.tx = some x → s.pins.linkHold = false → s.sendsResetReply = false →
    ∃ t, exec .recordSent s = .next t ∧ t.lif.tx =
      (match s.lif.replies with
      | r :: _ => some r
      | [] =>
        if s.lif.resetPending then none
        else if s.lif.noticeDue = true ∧ s.ntu.pending &&& s.ntu.enabled ≠ 0 then
          some ⟨0x40#8, 0#8, le16 (s.ntu.pending &&& s.ntu.enabled).toNat⟩
        else
          match s.lif.reports with
          | r :: _ => some r
          | [] =>
            match s.takeImage, s.takePreview with
            | some (r, _), _ => some r
            | none, some (r, _) => some r
            | none, none => none)) ∧
  (∀ (s u : State) (x r : Record) (rest : List Record) (p : Producer) (waiting : List Producer),
    s.lif.tx = some x → s.pins.linkHold = false → s.lif.resetPending = false → s.lif.replies = [] →
    s.lif.noticeDue = false → s.lif.reports = r :: rest → s.lif.waitList = p :: waiting → p ∉ waiting →
    u = (s.setLif { s.lif with tx := some r, reports := rest, waitList := waiting }).place p →
    exec .recordSent s = .next (if u.hasReport p = true then
        u.setLif { u.lif with waitList := waiting ++ [p] } else u).settle) ∧
  (∀ s t : State,
    (s.coeAdvance = some t → s.settleStep = some t) ∧
    (s.coeAdvance = none → s.testMarker = some t → s.settleStep = some t) ∧
    (s.coeAdvance = none → s.testMarker = none → s.drainCheck = some t → s.settleStep = some t)) ∧
  (∀ (k : Nat) (at_ : Nat → State), k ≤ 128 → (∀ i, i < k → (at_ i).settleStep = some (at_ (i + 1))) →
    (at_ k).settleStep = none → (at_ 0).settle = at_ k) ∧
  (∀ (s : State) (p : Producer) (before after : List Producer),
    s.coeAdvance = none → s.testMarker = none → s.drainCheck = none →
    [.cap, .frd, .coe, .scn] = before ++ p :: after →
    (∀ q ∈ before, s.hasReport q = false ∨ q ∈ s.lif.waitList) → s.hasReport p = true →
    p ∉ s.lif.waitList →
    s.settleStep = some (if s.lif.reports.length < 8 ∧ s.lif.waitList = [] then s.place p
      else s.setLif { s.lif with waitList := s.lif.waitList ++ [p] }))

/-- LINK_HOLD: its coming cuts nothing, while it lasts a record that ends is followed by none, and its going
lets the arbiter choose at once: a reply, whose room lets a command that waits in the slot act; with none queued and
no reset pending, a NOTICE whose set is not empty, a report, whose room goes to the head of the wait list, an IMAGE
record, or a PREVIEW record; or nothing. A notice slot that is due with an empty set is not due afterwards (R170,
R173 to R177; a repeated level is no edge, log 29; an IMAGE or PREVIEW record taken lets the device settle, log 9). -/
def Obligations.LinkHoldStopsTheArbiter : Prop :=
  ∀ s : State,
    exec .linkHoldActive s = .next (s.setPins { s.pins with linkHold := true }) ∧
    (s.pins.linkHold = true → s.sendsResetReply = false →
      exec .recordSent s = .next (s.setLif { s.lif with tx := none })) ∧
    (s.pins.linkHold = true → ∀ x, s.lif.tx = some x →
      exec .linkHoldInactive s = .next (s.setPins { s.pins with linkHold := false })) ∧
    (s.pins.linkHold = false → exec .linkHoldInactive s = .next s) ∧
    (s.pins.linkHold = true → s.lif.tx = none → ∀ going : State,
      going = s.setPins { s.pins with linkHold := false } →
      (∀ (r : Record) (rest : List Record) (taken : State), s.lif.replies = r :: rest →
        taken = going.setLif { s.lif with replies := rest, tx := some r } →
        (s.lif.slot = none ∨ s.cap.afe ≠ none ∨ s.lif.resetPending = true ∨ 4 ≤ rest.length →
          exec .linkHoldInactive s = .next taken) ∧
        (∀ (x : Record) (p : List Byte) (u : State), s.lif.slot = some x → s.cap.afe = none →
          s.lif.resetPending = false → rest.length < 4 → taken.judgeRecord x = ⟨u, some p⟩ →
          u.lif.resetPending = false →
          exec .linkHoldInactive s = .next (u.setLif { u.lif with
            slot := none
            replies := u.lif.replies ++ [⟨replyKind x.kind, x.tag, p⟩] }))) ∧
      (s.lif.replies = [] → s.lif.resetPending = true → exec .linkHoldInactive s = .next going) ∧
      (s.lif.replies = [] → s.lif.resetPending = false →
        (s.lif.noticeDue = true → s.ntu.pending &&& s.ntu.enabled ≠ 0 →
          exec .linkHoldInactive s = .next (going.setLif { s.lif with
            noticeDue := false
            tx := some ⟨0x40#8, 0#8, le16 (s.ntu.pending &&& s.ntu.enabled).toNat⟩ })) ∧
        (s.lif.noticeDue = false ∨ s.ntu.pending &&& s.ntu.enabled = 0 → ∀ v : State,
          v = going.setLif { s.lif with noticeDue := false } →
          (∀ (r : Record) (rest : List Record), s.lif.reports = r :: rest → s.lif.waitList = [] →
            s.settleStep = none →
            exec .linkHoldInactive s = .next (v.setLif { v.lif with tx := some r, reports := rest })) ∧
          (∀ (r : Record) (rest : List Record) (p : Producer) (waiting : List Producer) (u : State),
            s.lif.reports = r :: rest → s.lif.waitList = p :: waiting → p ∉ waiting →
            u = (v.setLif { v.lif with tx := some r, reports := rest, waitList := waiting }).place p →
            exec .linkHoldInactive s = .next (if u.hasReport p = true then
              u.setLif { u.lif with waitList := waiting ++ [p] } else u).settle) ∧
          (s.lif.reports = [] →
            (∀ r u, v.takeImage = some (r, u) →
              exec .linkHoldInactive s = .next (u.setLif { u.lif with tx := some r }).settle) ∧
            (s.takeImage = none →
              (∀ r u, v.takePreview = some (r, u) →
                exec .linkHoldInactive s = .next (u.setLif { u.lif with tx := some r }).settle) ∧
              (s.takePreview = none → exec .linkHoldInactive s = .next v))))))

/-! ## Resets -/

/-- What a SOFT_RESET leaves, block by block: both rows that end its reply make it take effect (R20, R35,
R60, R85, R107, R127, R147, R165, R177, R178, R185, R193; that both rows do is log 16). -/
def Obligations.SoftResetTakesEffectInEveryBlock : Prop :=
  ∀ (c : Instr) (s : State), c = .softResetTakesEffect ∨ c = .recordSent → s.sendsResetReply = true →
    ∃ t, exec c s = .next t ∧
      (t.cap.dark = s.cap.dark ∧ t.cap.gain = s.cap.gain ∧ t.cap.valid = s.cap.valid ∧
        t.cap.lamp = s.cap.lamp ∧ t.cap.warmup = s.cap.warmup ∧ t.cap.gateOpen = false ∧
        t.cap.inFlight = none ∧ t.cap.nextLine = 0 ∧ t.cap.remaining = 0 ∧ t.cap.watchdog = false ∧
        t.cap.cal = none ∧ t.cap.calTimer = false ∧ t.cap.calCount = 0 ∧ t.cap.afe = none ∧
        t.cap.report = none) ∧
      t.rng.lines = [] ∧
      (t.frd.table = [] ∧ t.frd.waiting = [] ∧ t.frd.rules = s.frd.rules ∧ t.frd.classifier = .gap ∧
        t.frd.nextNumber = 1 ∧ t.frd.imageRun = 0 ∧ t.frd.gapRun = 0 ∧ t.frd.probe = [] ∧
        t.frd.outside = .zero ∧
        t.frd.baseR = max 256 s.setup.baseR ∧ t.frd.baseG = max 256 s.setup.baseG ∧
        t.frd.baseIR = max 256 s.setup.baseIR) ∧
      t.dfd = ⟨[], [], 0⟩ ∧ t.rpe = ⟨[], none, 0, 0⟩ ∧
      (t.coe.pendingProfile = s.coe.pendingProfile ∧ t.coe.active = s.coe.active ∧ t.coe.step = .idle ∧
        t.coe.frame = none ∧ t.coe.segOffset = 0 ∧ t.coe.settled = 0 ∧ t.coe.boxes = [] ∧
        t.coe.preview = s.scn.setup.preview ∧ t.coe.lineCount = 0 ∧ t.coe.rowIndex = 0 ∧ t.coe.rows = [] ∧
        t.coe.previewOffset = 0 ∧ t.coe.previewDone = true) ∧
      (t.trc.position = s.trc.position ∧
        t.trc.valid = (s.trc.valid && decide (s.trc.motion ≠ .homing)) ∧
        t.trc.motion = .parked ∧ t.trc.braking = false ∧ t.trc.target = none ∧ t.trc.homing = none ∧
        t.trc.scanOn = false ∧ t.trc.ring = .s3 ∧ t.trc.repair = .s3 ∧ t.trc.table = .s3 ∧
        t.trc.cap = .s3 ∧ t.trc.current = .s0 ∧ t.trc.ramp = none ∧ t.trc.hold = false ∧
        t.trc.resumeLine = 0 ∧ t.trc.resumePos = 0) ∧
      t.scn = .initial s.scn.setup ∧
      t.lif = ⟨.hunt, .none, none, [], [], [], false, none, false⟩ ∧
      t.ntu = ⟨if s.pins.holder then 0#9 else 4#9, 0#9, false⟩ ∧
      t.pins = s.pins

/-- What power-on and the RESET pin leave, block by block (R20, R35, R60, R85, R107, R127, R147, R165, R178,
R193; the pin levels stay the outside world's, log 5, and the pin is one event, log 6). -/
def Obligations.PowerOnAndResetPinClearTheDevice : Prop :=
  ∀ (c : Instr) (s : State), c = .powerOn ∨ c = .resetPin →
    ∃ t, exec c s = .next t ∧
      (t.cap.dark = .const [] ∧ t.cap.gain = .const [] ∧ t.cap.valid = false ∧ t.cap.lamp = .off ∧
        t.cap.warmup = false ∧ t.cap.gateOpen = false ∧ t.cap.inFlight = none ∧ t.cap.nextLine = 0 ∧
        t.cap.remaining = 0 ∧ t.cap.watchdog = false ∧ t.cap.cal = none ∧ t.cap.calTimer = false ∧
        t.cap.calCount = 0 ∧ t.cap.afe = none ∧ t.cap.report = none) ∧
      t.rng.lines = [] ∧
      (t.frd.table = [] ∧ t.frd.rules = ⟨.off, .off, .off, .off⟩ ∧ t.frd.nextNumber = 1 ∧
        t.frd.classifier = .gap ∧ t.frd.imageRun = 0 ∧ t.frd.gapRun = 0 ∧ t.frd.probe = [] ∧
        t.frd.waiting = [] ∧ t.frd.outside = .zero ∧
        t.frd.baseR = 40000 ∧ t.frd.baseG = 40000 ∧ t.frd.baseIR = 40000) ∧
      t.dfd = ⟨[], [], 0⟩ ∧ t.rpe = ⟨[], none, 0, 0⟩ ∧
      (t.coe.pendingProfile = none ∧ t.coe.active = ⟨false, false, false, 0, 0, 0, 0, 0⟩ ∧
        t.coe.step = .idle ∧ t.coe.frame = none ∧ t.coe.segOffset = 0 ∧ t.coe.settled = 0 ∧
        t.coe.preview = false ∧ t.coe.boxes = [] ∧ t.coe.lineCount = 0 ∧ t.coe.rowIndex = 0 ∧ t.coe.rows = [] ∧
        t.coe.previewOffset = 0 ∧ t.coe.previewDone = true) ∧
      (t.trc.position = 0 ∧ t.trc.valid = false ∧ t.trc.motion = .parked ∧ t.trc.braking = false ∧
        t.trc.target = none ∧ t.trc.homing = none ∧ t.trc.scanOn = false ∧ t.trc.ring = .s3 ∧
        t.trc.repair = .s3 ∧ t.trc.table = .s3 ∧ t.trc.cap = .s3 ∧ t.trc.current = .s0 ∧
        t.trc.ramp = none ∧ t.trc.hold = false ∧ t.trc.resumeLine = 0 ∧ t.trc.resumePos = 0) ∧
      t.scn = .initial ⟨256, 1, 8192, 0, 8191, 1000, 40000, 40000, 40000, 224, 192, 6, 6, 8000, 224, 192,
        2, 64, true, false, false, 0x2C⟩ ∧
      t.lif = ⟨.hunt, .none, none, [], [], [], false, none, false⟩ ∧
      t.ntu = ⟨if s.pins.holder then 0#9 else 4#9, 0#9, false⟩ ∧
      t.pins = s.pins

/-- A SOFT_RESET dispatched at a ready link is answered OK, keeps the slot, and changes nothing else before
its reply has been sent (R169, R177, R185). -/
def Obligations.SoftResetWaitsForItsReply : Prop :=
  ∀ (tag : Byte) (s : State), Ready s →
    ∃ t, exec (.softReset tag []) s = .next t ∧
      t = s.setLif { s.lif with
        framer := .hunt
        slot := some ⟨0x03#8, tag, []⟩
        resetPending := true
        replies := t.lif.replies
        tx := t.lif.tx } ∧
      t.outgoing = s.outgoing ++ [⟨0x83#8, tag, [0#8]⟩]

/-! ## Refusals -/

/-- The operation states that take each command, by the table of section 8.6 (R148, R149, R179). -/
def Obligations.CommandsAreTakenByTheTable : Prop :=
  ∀ (k : Kind) (op : OpState), k.takenIn op = true ↔
    (k ∈ [Kind.identify, .status, .softReset, .abort, .mark, .speedCap, .profile, .formatRule,
        .causeEnable, .causeClear] ∨
      (k = .lamp ∧ op ∉ [OpState.calibrating, .preparing, .scanning]) ∨
      (k ∈ [Kind.home, .afeWrite, .afeRead] ∧ op ∈ [OpState.idle, .faulted]) ∨
      (k ∈ [Kind.move, .calRun, .calLoad, .calRead, .setup, .scanStart] ∧ op = .idle))

/-- A command that its state does not take, or SCAN_START, HOME, MOVE and CAL_RUN while a FAULT or SCAN_END
waits, is answered BUSY with the operation state and changes nothing (R149, R163, R171, R179, R198). -/
def Obligations.BusyCommandsChangeNothing : Prop :=
  ∀ (r : Record) (k : Kind) (s : State), Ready s → kindOf r.kind = some k → r.payload.length ≤ 1024 →
    (k.takenIn s.scn.op = false ∨
      (k ∈ [Kind.scanStart, .home, .move, .calRun] ∧
        (.scanEnd ∈ s.scn.due ∨ ∃ f, ScnReport.fault f ∈ s.scn.due))) →
    ∃ t, exec (rowOf r) s = .next t ∧
      Replied s t ⟨r.kind + 0x80#8, r.tag, [1#8, s.scn.op.code]⟩

/-- A command that its state takes and whose form is not in order is answered BAD_ARG and changes nothing:
a wrong length, or a choice that names none; SETUP names field 0 for its length, else the first flag that
is not 0 or 1 (R179, R195, R197, R198). -/
def Obligations.BadFormChangesNothing : Prop :=
  ∀ (r : Record) (k : Kind) (s : State), Ready s → kindOf r.kind = some k → r.payload.length ≤ 1024 →
    s.refusesNow k = false →
    (r.payload.length ≠ k.length r.payload ∨ k.choicesOk r.payload = false) →
    ∃ t, exec (rowOf r) s = .next t ∧
      Replied s t ⟨r.kind + 0x80#8, r.tag,
        if k ≠ .setup then [2#8]
        else if r.payload.length ≠ 32 then [2#8, 0#8]
        else if 1 < u8 r.payload 28 then [2#8, 15#8]
        else if 1 < u8 r.payload 29 then [2#8, 16#8]
        else [2#8, 17#8]⟩

/-- A record of a kind that is no command's acts on nothing and is answered UNKNOWN_KIND with the kind
received; the reply's kind is 0xFF from 0x80 upward (R170, R171, R196). -/
def Obligations.UnknownKindsActOnNothing : Prop :=
  ∀ (kind tag : Byte) (p : List Byte) (s : State), Ready s → kindOf kind = none → p.length ≤ 1024 →
    ∃ t, exec (.unknownKind kind tag p) s = .next t ∧
      Replied s t ⟨if kind.toNat < 0x80 then kind + 0x80#8 else 0xFF#8, tag, [6#8, kind]⟩

/-! ## Identity and status -/

/-- IDENTIFY is answered with the part's identity and capacities in every state and acts on nothing (R180,
R198). -/
def Obligations.IdentifyNamesThePart : Prop :=
  ∀ (tag : Byte) (s : State), Ready s →
    ∃ t, exec (.identify tag []) s = .next t ∧
      Replied s t ⟨0x81#8, tag, [0, 0x40, 0x26, 1, 4, 16, 64, 0, 0x00, 0x20, 1, 0, 0x60, 0xEA, 0xFF, 0xFF,
        128, 8, 64, 64, 4, 4, 2, 1, 4, 8, 1, 0x00, 0x04, 0x00, 0x08]⟩

/-- STATUS is answered with the device as it stands, in every state, and changes nothing (R181, R198). -/
def Obligations.StatusReportsTheDevice : Prop :=
  ∀ (tag : Byte) (s : State), Ready s →
    ∃ t, exec (.status tag []) s = .next t ∧
      Replied s t ⟨0x82#8, tag, [0, s.scn.op.code, s.cap.lamp.code, flagByte s.cap.valid,
        s.trc.motion.code, byte s.trc.current.num, byte s.trc.position.toNat,
        byte (s.trc.position.toNat / 256), flagByte s.trc.valid, byte s.rng.lines.length,
        byte s.frd.table.length, byte s.dfd.regions.length, byte s.rpe.queue.length,
        byte s.scn.markers.length, byte s.ntu.pending.toNat, byte (s.ntu.pending.toNat / 256),
        byte s.ntu.enabled.toNat, byte (s.ntu.enabled.toNat / 256), s.lif.lastError.code]⟩

/-! ## Setup, profile and format rules -/

/-- A SETUP whose six tests pass replaces the whole setup, as clamped, and is answered with it; the tables
become INVALID if W changes, and nothing else changes (R7, R182, R183, R198). -/
def Obligations.SetupReplacesTheSetup : Prop :=
  ∀ (tag : Byte) (p : List Byte) (s : State) (u : Setup), Ready s → s.scn.op = .idle → p.length = 32 →
    u8 p 28 ≤ 1 → u8 p 29 ≤ 1 → u8 p 30 ≤ 1 →
    u = { setupOf p with
      lp := max 250 (min 20000 (u16 p 10))
      baseR := max 256 (u16 p 12)
      baseG := max 256 (u16 p 14)
      baseIR := max 256 (u16 p 16)
      gl := max 128 (min 255 (u8 p 18))
      il := max 64 (min 255 (u8 p 19))
      gapMin := max 1 (min 32 (u8 p 20))
      imageMin := max 1 (min 32 (u8 p 21))
      mfl := max 64 (min 16384 (u16 p 22))
      edge := max 64 (min 255 (u8 p 24))
      t := max 32 (min 240 (u8 p 25))
      d := min 7 (u8 p 26) } →
    (1 ≤ u.n ∧ u.n ≤ 60000) → (64 ≤ u.w ∧ u.w ≤ 8192 ∧ u.w % 16 = 0) →
    (u.wl < u.wr ∧ u.wr ≤ u.w - 1 ∧ 64 ≤ u.wr - u.wl + 1) → u.il + 8 ≤ u.gl → u.afeAddress ≤ 127 →
    u.p0 + u.n - 1 ≤ 65535 →
    ∃ t, exec (.setup tag p) s = .next t ∧
      Replied ((s.setScn { s.scn with setup := u }).setCap { s.cap with
        valid := s.cap.valid && decide (u.w = s.scn.setup.w) }) t
        ⟨0x88#8, tag, 0#8 :: u.bytes⟩

/-- A SETUP that fails a test is answered with the number of the first field that failed, and nothing is
written (R182, R198). -/
def Obligations.SetupNamesTheRefusedField : Prop :=
  ∀ (tag : Byte) (p : List Byte) (s : State) (u : Setup) (field : Nat), Ready s → s.scn.op = .idle →
    p.length = 32 → u8 p 28 ≤ 1 → u8 p 29 ≤ 1 → u8 p 30 ≤ 1 → u = (setupOf p).clamped →
    field = (if u.n < 1 ∨ 60000 < u.n then 2
      else if u.w < 64 ∨ 8192 < u.w ∨ u.w % 16 ≠ 0 then 3
      else if ¬(u.wl < u.wr ∧ u.wr < u.w ∧ 64 ≤ u.wr - u.wl + 1) then 4
      else if u.gl - 8 < u.il then 8
      else if 127 < u.afeAddress then 18
      else if 65535 < u.p0 + u.n - 1 then 19
      else 0) → field ≠ 0 →
    ∃ t, exec (.setup tag p) s = .next t ∧ Replied s t ⟨0x88#8, tag, [2#8, byte field]⟩

/-- The setup's layout loses nothing: a setup in range, laid out as the SETUP payload, is read back as
itself, no clamp touches it and no test refuses it (R182, R197). -/
def Obligations.SetupLayoutIsReadBack : Prop :=
  ∀ u : Setup, SetupInRange u →
    u.bytes.length = 32 ∧ setupOf u.bytes = u ∧ u.clamped = u ∧ u.refusedField = none

/-- PROFILE, in every state, puts its profile, its margins clamped, into the pending slot in place of what was
there, and nothing else changes; a channels value or depth that names none, a flag that is neither 0 nor 1, or
a fixed width that is not 0 or an even number from 16 to 8,192 is refused and writes nothing (R108, R197,
R198). -/
def Obligations.ProfileWaitsInThePendingSlot : Prop :=
  ∀ (tag : Byte) (p : List Byte) (s : State) (f : Profile), Ready s → p.length = 10 →
    f = ⟨decide (u8 p 0 = 1), decide (u8 p 1 = 8), decide (u8 p 2 = 1), min 63 (u8 p 3), min 15 (u8 p 4),
      min 15 (u8 p 5), u16 p 6, u16 p 8⟩ →
    ∃ t, exec (.profile tag p) s = .next t ∧
      if u8 p 0 ≤ 1 ∧ (u8 p 1 = 16 ∨ u8 p 1 = 8) ∧ u8 p 2 ≤ 1 ∧
          (f.fw = 0 ∨ (f.fw % 2 = 0 ∧ 16 ≤ f.fw ∧ f.fw ≤ 8192)) then
        Replied (s.setCoe { s.coe with pendingProfile := some f }) t ⟨0x89#8, tag, 0#8 :: f.bytes⟩
      else Replied s t ⟨0x89#8, tag, [2#8]⟩

/-- FORMAT_RULE replaces the named rule whole and no other; an index above 3 or a maximum below the minimum
is refused (R48, R197, R198). -/
def Obligations.FormatRuleReplacesOneRule : Prop :=
  ∀ (tag : Byte) (p : List Byte) (s : State), Ready s → p.length = 6 → u8 p 1 ≤ 1 →
    ∃ t, exec (.formatRule tag p) s = .next t ∧
      if u8 p 0 ≤ 3 ∧ u16 p 2 ≤ u16 p 4 then
        ∃ rules, Replied (s.setFrd { s.frd with rules := rules }) t ⟨0x8A#8, tag, 0#8 :: p⟩ ∧
          rules.get (u8 p 0) = ⟨decide (u8 p 1 = 1), u16 p 2, u16 p 4⟩ ∧
          ∀ j, j ≤ 3 → j ≠ u8 p 0 → rules.get j = s.frd.rules.get j
      else Replied s t ⟨0x8A#8, tag, [2#8]⟩

/-! ## Scans and markers -/

/-- SCAN_START in IDLE is refused NOT_READY, with nothing changed, while the tables are INVALID, the position
is INVALID or the holder is absent; its reply names the first that fails in this order (R149, R196, R198). -/
def Obligations.ScanStartNeedsThreeConditions : Prop :=
  ∀ (tag : Byte) (s : State), Ready s → s.scn.op = .idle → s.scn.endWaits = false →
    (s.cap.valid = false ∨ s.trc.valid = false ∨ s.pins.holder = false) →
    ∃ t, exec (.scanStart tag []) s = .next t ∧
      Replied s t ⟨0x8B#8, tag, [3#8,
        if s.cap.valid = false then 1#8 else if s.trc.valid = false then 2#8 else 3#8]⟩

/-- A taken SCAN_START sets the starting state of every block from the setup in force and enters PREPARING; a
lamp that is OFF is switched on, and one that is ON lets the hold of the run-up begin unless the cap is S0
(R16, R17, R41, R85, R107, R109, R122, R143, R147, R150, R151). The model's choices in it: a carriage that still
brakes stands (log 12), the line handled becomes 0 (log 30), preview done keeps its value where the preview option
is off (log 37), and DIR and the fields that the table of R147 does not list take the values of log 19. -/
def Obligations.ScanStartSetsEveryBlock : Prop :=
  ∀ (tag : Byte) (s : State), Ready s → s.scn.op = .idle → s.scn.endWaits = false →
    s.cap.valid = true → s.trc.valid = true → s.pins.holder = true →
    ∃ t u, exec (.scanStart tag []) s = .next t ∧ Replied u t ⟨0x8B#8, tag, [0#8, 3#8]⟩ ∧
      u.cap = { s.cap with
        nextLine := 0
        remaining := s.scn.setup.n
        gateOpen := false
        lamp := if s.cap.lamp = .off then .warming else s.cap.lamp
        warmup := if s.cap.lamp = .off then true else s.cap.warmup } ∧
      u.rng = s.rng ∧
      u.frd = { s.frd with
        baseR := max 256 s.scn.setup.baseR
        baseG := max 256 s.scn.setup.baseG
        baseIR := max 256 s.scn.setup.baseIR
        classifier := .gap
        imageRun := 0
        gapRun := 0
        probe := []
        nextNumber := 1
        outside := ⟨0, 0, 0, 0, 0, 0⟩
        handled := 0 } ∧
      u.dfd = ⟨[], [], 0⟩ ∧ u.rpe = ⟨[], none, 0, 0⟩ ∧
      (u.coe.active = s.coe.pendingProfile.getD s.coe.active ∧ u.coe.pendingProfile = none ∧
        u.coe.step = .idle ∧ u.coe.frame = none ∧ u.coe.segOffset = 0 ∧ u.coe.settled = 0 ∧
        u.coe.preview = s.scn.setup.preview ∧ u.coe.boxes = [] ∧ u.coe.lineCount = 0 ∧
        u.coe.rowIndex = 0 ∧ u.coe.rows = [] ∧ u.coe.previewOffset = 0 ∧
        u.coe.previewDone = (if s.scn.setup.preview = true then false else s.coe.previewDone)) ∧
      u.trc = { Trc.powerOn with
        position := s.trc.position
        valid := true
        dir := s.trc.dir
        scanOn := true
        cap := s.trc.cap
        resumePos := s.scn.setup.p0
        lampReady := decide (s.cap.lamp = .on)
        hold := decide (s.cap.lamp = .on) && decide (s.trc.cap ≠ .s0) } ∧
      u.scn = { s.scn with
        op := .preparing
        captured := 0
        frames := 0
        slivers := 0
        reseeks := 0
        abandoned := 0
        firstHeld := 0
        drain := ⟨false, false, false, false, false⟩
        endReason := none
        endFault := none } ∧
      u.lif = s.lif ∧ u.ntu = { s.ntu with haltedCond := false } ∧ u.pins = s.pins

/-- MARK, in every state: FULL while the marker queue holds four; else the marker takes its line, 0 in PREPARING,
the next line number in SCANNING, N in DRAINING, and none in the other states, and its reply says which. One whose
line has not left the ring, or that stands behind one not yet reached, waits; one of no line, of line 0, or of a line
that has left the ring is reached at once, and its MARK_REACHED enters the report queue, or stands behind those that
wait for room. A marker is reached, behind those
already reached, once its line is at most the first line held, which each release reports: its line and all before
it have left the ring; its MARK_REACHED is then due, enters where there is room, and removes the marker (R161 to
R163, R173, R199; a marker behind a head that waits for room is log 35; the arbiter chooses at the end of the row,
log 32). -/
def Obligations.MarkRecordsItsLine : Prop :=
  (∀ (s : State) (before after : List Marker) (m : Marker), s.scn.markers = before ++ m :: after →
    (∀ x ∈ before, x.reached = true) → m.reached = false →
    (m.line = none ∨ (∃ l, m.line = some l ∧ (l = 0 ∨ l ≤ s.scn.firstHeld)) →
      s.testMarker = some (s.setScn { s.scn with
        markers := before ++ { m with reached := true } :: after
        due := s.scn.due ++ [.markReached] })) ∧
    (∀ l, m.line = some l → l ≠ 0 → s.scn.firstHeld < l → s.testMarker = none)) ∧
  (∀ s : State, (∀ m ∈ s.scn.markers, m.reached = true) → s.testMarker = none) ∧
  (∀ (s : State) (m : Marker) (rest : List Marker) (due : List ScnReport),
    s.scn.due = .markReached :: due → s.scn.markers = m :: rest →
    s.place .scn = (s.setScn { s.scn with due := due, markers := rest }).setLif { s.lif with
      reports := s.lif.reports ++ [⟨0x43#8, 0#8, le16 m.value.toNat ++
        (match m.line with | some l => le16 l | none => [0xFF#8, 0xFF#8]) ++ [flagByte m.aborted]⟩] }) ∧
  (∀ (s : State) (m : Marker) (l held : Nat), s.settleStep = none → s.scn.op.plain = true →
    s.reportsOpen = true → s.scn.markers = [m] → m.reached = false → m.line = some l → l ≤ held →
    (s.setScn { s.scn with firstHeld := held }).settle =
      (s.setScn { s.scn with firstHeld := held, markers := [] }).setLif { s.lif with
        reports := s.lif.reports ++ [⟨0x43#8, 0#8, le16 m.value.toNat ++ le16 l ++ [flagByte m.aborted]⟩] }) ∧
  ∀ (tag a b : Byte) (s : State), Ready s →
    (4 ≤ s.scn.markers.length →
      ∃ t, exec (.mark tag [a, b]) s = .next t ∧ Replied s t ⟨0x8C#8, tag, [4#8]⟩) ∧
    (∀ (line : Option Nat) (field : List Byte), s.scn.markers.length < 4 → s.settleStep = none →
      (s.scn.op = .preparing ∧ line = some 0 ∨ s.scn.op = .scanning ∧ line = some s.cap.nextLine ∨
        s.scn.op = .draining ∧ line = some s.scn.setup.n ∨
        s.scn.op ∈ [OpState.idle, .positioning, .calibrating, .stopping, .faulted] ∧ line = none) →
      field = (match line with
        | some l => [byte l, byte (l / 256)]
        | none => [0xFF#8, 0xFF#8]) →
      ((∃ m ∈ s.scn.markers, m.reached = false) ∨ (∃ l, line = some l ∧ 0 < l ∧ s.scn.firstHeld < l) →
        ∃ t, exec (.mark tag [a, b]) s = .next t ∧
          Replied (s.setScn { s.scn with markers := s.scn.markers ++ [⟨b ++ a, line, false, false⟩] }) t
            ⟨0x8C#8, tag, 0#8 :: field⟩) ∧
      (line = none ∨ (∃ l, line = some l ∧ (l = 0 ∨ l ≤ s.scn.firstHeld)) →
        (s.scn.markers = [] → s.reportsOpen = true →
          ∃ t, exec (.mark tag [a, b]) s = .next t ∧
            Replied (s.setLif { s.lif with
              reports := s.lif.reports ++ [⟨0x43#8, 0#8, [a, b] ++ field ++ [0#8]⟩] }) t
              ⟨0x8C#8, tag, 0#8 :: field⟩) ∧
        ((∀ m ∈ s.scn.markers, m.reached = true) → .scn ∈ s.lif.waitList →
          ∃ t, exec (.mark tag [a, b]) s = .next t ∧
            Replied (s.setScn { s.scn with
              markers := s.scn.markers ++ [⟨b ++ a, line, true, false⟩]
              due := s.scn.due ++ [.markReached] }) t
              ⟨0x8C#8, tag, 0#8 :: field⟩)))

/-- SPEED_CAP posts its value, clamped to S3. With scan transport off the cap alone changes, and so it does
where the resolved grade stays. A resolved grade that changes while the carriage runs at a grade starts a
lowering ramp at once, starts the hold before a raise, or stops the hold where it equals the current grade;
during a ramp it waits for the ramp's end. S0 halts a carriage that cruises: the gate is shut, the resume line is
the first line not started, and the carriage brakes from the grade it had. S0 during an approach or a backtrack
brakes as well, and the resume line is kept. While the carriage stands or brakes in scan transport, S0 stops the
hold, and a grade above S0 starts it (R130, R134 to R141; the interval that is doubled during a ramp is the one
that runs, log 20; what the lamp and the hold have done before the stop event is noted in fields of log 19). -/
def Obligations.SpeedCapPostsItsDemand : Prop :=
  ∀ (tag b : Byte) (s : State), Ready s →
    (s.trc.scanOn = false →
      ∃ t, exec (.speedCap tag [b]) s = .next t ∧
        Replied (s.setTrc { s.trc with cap := gradeOf (min 3 b.toNat) }).evalHalted t
          ⟨0x8D#8, tag, [0#8, byte (min 3 b.toNat)]⟩) ∧
    (∀ x y : Trc, s.trc.scanOn = true → x = { s.trc with cap := gradeOf (min 3 b.toNat) } →
      (x.resolved = s.trc.resolved ∧ y = x ∨
        x.resolved ≠ s.trc.resolved ∧ x.resolved ≠ .s0 ∧ x.braking = false ∧
          (x.motion = .approaching ∨ x.motion = .cruising) ∧
          y = (if x.ramp ≠ none then x
            else if x.resolved.num < x.current.num then { x with hold := false, ramp := some x.resolved }
            else if x.current.num < x.resolved.num then { x with hold := true }
            else { x with hold := false }) ∨
        x.resolved ≠ s.trc.resolved ∧ x.resolved ≠ .s0 ∧ x.braking = false ∧ x.motion = .backtracking ∧
          y = x ∨
        x.resolved ≠ s.trc.resolved ∧ x.resolved ≠ .s0 ∧ (x.braking = true ∨ x.motion = .parked) ∧
          y = (if x.lampReady = true ∧ x.holdDone = false then { x with hold := true } else x) ∨
        x.resolved ≠ s.trc.resolved ∧ x.resolved = .s0 ∧ (x.braking = true ∨ x.motion = .parked) ∧
          y = { x with hold := false, holdDone := false } ∨
        x.resolved ≠ s.trc.resolved ∧ x.resolved = .s0 ∧ x.braking = false ∧
          (x.motion = .approaching ∧ x.current ≠ .s0 ∨ x.motion = .backtracking) ∧
          0 < x.position.toNat ∧ x.position.toNat < 65535 ∧
          y = { x with
            braking := true
            ramp := none
            hold := false
            holdDone := false
            target := none
            current := .s0
            brakesLeft := if x.motion = .approaching then x.current.num else 3
            interval := 2 * x.interval }) →
      ∃ t, exec (.speedCap tag [b]) s = .next t ∧
        Replied (s.setTrc y).evalHalted t ⟨0x8D#8, tag, [0#8, byte (min 3 b.toNat)]⟩) ∧
    (s.trc.scanOn = true → s.trc.motion = .cruising → s.trc.braking = false → s.trc.resolved ≠ .s0 →
      s.trc.current ≠ .s0 → s.trc.dir = .forward → s.trc.position.toNat < 65535 →
      ∃ t, exec (.speedCap tag [0#8]) s = .next t ∧
        Replied ((s.setCap { s.cap with gateOpen := false }).setTrc { s.trc with
          cap := .s0
          resumeLine := s.cap.nextLine
          resumePos := s.scn.setup.p0 + s.cap.nextLine
          braking := true
          ramp := none
          hold := false
          holdDone := false
          target := none
          current := .s0
          brakesLeft := s.trc.current.num
          interval := 2 * s.trc.interval }).evalHalted t ⟨0x8D#8, tag, [0#8, 0#8]⟩)

/-! ## Lamp and carriage commands -/

/-- LAMP outside CALIBRATING, PREPARING and SCANNING: on from OFF is WARMING with the timer started, on
otherwise changes nothing, off from any state is OFF with the timer stopped (R16). -/
def Obligations.LampSwitches : Prop :=
  ∀ (tag b : Byte) (s : State), Ready s → s.scn.op ∉ [OpState.calibrating, .preparing, .scanning] →
    (b = 0#8 →
      ∃ t, exec (.lamp tag [b]) s = .next t ∧
        Replied (s.setCap { s.cap with lamp := .off, warmup := false }) t ⟨0x90#8, tag, [0#8, 0#8]⟩) ∧
    (b = 1#8 → s.cap.lamp = .off →
      ∃ t, exec (.lamp tag [b]) s = .next t ∧
        Replied (s.setCap { s.cap with lamp := .warming, warmup := true }) t ⟨0x90#8, tag, [0#8, 1#8]⟩) ∧
    (b = 1#8 → s.cap.lamp ≠ .off →
      ∃ t, exec (.lamp tag [b]) s = .next t ∧
        Replied s t ⟨0x90#8, tag, [0#8, if s.cap.lamp = .warming then 1#8 else 2#8]⟩)

/-- HOME in IDLE or FAULTED: POSITIONING, the position INVALID, HOMING in reverse at LP, or forward first while the
HOME input is active. The HOME of a carriage that still brakes begins at the stop event (R129, R130, R132, R184);
that it is queued, that POSITIONING and the INVALID position come at once, and that the reply says HOMING are the
model's choices (log 11). -/
def Obligations.HomeBeginsToSeek : Prop :=
  ∀ (tag : Byte) (s : State), Ready s → s.scn.op = .idle ∨ s.scn.op = .faulted → s.scn.endWaits = false →
    (s.trc.braking = false →
      ∃ t, exec (.home tag []) s = .next t ∧
        Replied (((s.setScn { s.scn with op := .positioning }).setNtu { s.ntu with
          haltedCond := false }).setTrc { s.trc with
            valid := false
            motion := .homing
            target := none
            homing := some ⟨if s.pins.home then .leaving else .seeking, 0⟩
            dir := if s.pins.home then .forward else .backward
            interval := s.scn.setup.lp }) t ⟨0x91#8, tag, [0#8, 1#8, 1#8]⟩) ∧
    (s.trc.braking = true →
      ∃ t, exec (.home tag []) s = .next t ∧
        Replied (((s.setScn { s.scn with op := .positioning }).setNtu { s.ntu with
          haltedCond := false }).setTrc { s.trc with valid := false, queued := some .home }) t
          ⟨0x91#8, tag, [0#8, 1#8, 1#8]⟩)

/-- MOVE in IDLE: refused NOT_READY while the position is INVALID; to another position it enters POSITIONING and
MOVING toward the target at LP; to the position held it arrives at once. The MOVE of a carriage that still brakes, to
whatever position, begins at the stop event (R129, R130, R133, R184); that it is queued, that POSITIONING comes at
once, and that the reply says MOVING are the model's choices (log 11). -/
def Obligations.MoveBeginsOrArrives : Prop :=
  ∀ (tag : Byte) (p : List Byte) (s : State), Ready s → p.length = 2 → s.scn.op = .idle →
    s.scn.endWaits = false →
    (s.trc.valid = false →
      ∃ t, exec (.move tag p) s = .next t ∧ Replied s t ⟨0x92#8, tag, [3#8]⟩) ∧
    (s.trc.braking = true → s.trc.valid = true →
      ∃ t, exec (.move tag p) s = .next t ∧
        Replied (((s.setScn { s.scn with op := .positioning }).setNtu { s.ntu with
          haltedCond := false }).setTrc { s.trc with queued := some (.move (u16 p 0)) }) t
          ⟨0x92#8, tag, [0#8, 1#8, 2#8]⟩) ∧
    (s.trc.braking = false → s.trc.valid = true → s.trc.position.toNat ≠ u16 p 0 →
      ∃ t, exec (.move tag p) s = .next t ∧
        Replied (((s.setScn { s.scn with op := .positioning }).setNtu { s.ntu with
          haltedCond := false }).setTrc { s.trc with
            motion := .moving
            target := some (u16 p 0)
            dir := if s.trc.position.toNat < u16 p 0 then .forward else .backward
            interval := s.scn.setup.lp }) t ⟨0x92#8, tag, [0#8, 1#8, 2#8]⟩) ∧
    (s.trc.braking = false → s.cap.cal = none → s.trc.valid = true → s.trc.position.toNat = u16 p 0 →
      ∃ t, exec (.move tag p) s = .next t ∧
        Replied ((s.setNtu { s.ntu with haltedCond := false }).setTrc { s.trc with
          motion := .parked
          target := none
          interval := 0 }) t ⟨0x92#8, tag, [0#8, 0#8, 0#8]⟩)

/-! ## The Front-End Control Port -/

/-- AFE_WRITE and AFE_READ in IDLE or FAULTED start a transfer with the device address of the setup; the
command keeps the slot and is not answered yet (R18, R19). -/
def Obligations.TransfersStart : Prop :=
  ∀ (tag a b : Byte) (s : State), Ready s → s.atRest → s.scn.op = .idle ∨ s.scn.op = .faulted →
    exec (.afeWrite tag [a, b]) s = .next ((s.setCap { s.cap with
      afe := some ⟨true, s.scn.setup.afeAddress, a, b⟩ }).setLif { s.lif with
        framer := .hunt, slot := some ⟨0x14#8, tag, [a, b]⟩ }) ∧
    exec (.afeRead tag [a]) s = .next ((s.setCap { s.cap with
      afe := some ⟨false, s.scn.setup.afeAddress, a, 0#8⟩ }).setLif { s.lif with
        framer := .hunt, slot := some ⟨0x15#8, tag, [a]⟩ })

/-- The end of a transfer: the port is IDLE, a missing acknowledge raises AFE_NACK, the command in the slot is
answered with the byte not acknowledged and, for a read, the data byte, and the slot is free (R18, R19, R198; that
the data byte of a read awaits no acknowledge is log 23; that the reply leaves ahead of a NOTICE made due in the
same row is log 32). With no transfer nothing happens, which is the model's choice (log 3). -/
def Obligations.TransfersEndWithTheReply : Prop :=
  ∀ (lost : Option AfeByte) (d : Byte) (s : State),
    (s.cap.afe = none → exec (.afeTransferComplete lost d) s = .next s) ∧
    (∀ (x : AfeTransfer) (r : Record), s.cap.afe = some x → s.lif.slot = some r →
      s.lif.resetPending = false → (x.write = false → lost ≠ some .data) →
      ∃ t u, exec (.afeTransferComplete lost d) s = .next t ∧
        u = (if lost = none then s.setCap { s.cap with afe := none }
          else (s.setCap { s.cap with afe := none }).raise .afeNack) ∧
        t = u.setLif { u.lif with slot := none, replies := t.lif.replies, tx := t.lif.tx } ∧
        t.outgoing = s.outgoing ++ [⟨replyKind r.kind, r.tag,
          [if lost = none then 0#8 else 5#8,
            match lost with
            | none => 0#8
            | some .address => 1#8
            | some .register => 2#8
            | some .data => 3#8] ++
          (if x.write then [] else [if lost = none then d else 0#8])⟩])

/-! ## Calibration -/

/-- CAL_RUN in IDLE: refused for a line count other than 8, 16 and 32, then for an INVALID position; else the run
begins, with its target at least 4,096, with a move to its position, or with the dark settle where the carriage
stands there. The move of a carriage that still brakes, to whatever position, begins at the stop event (R8, R9, R17,
R130, R184); that it is queued and that POSITIONING comes at once are the model's choices (log 11). -/
def Obligations.CalRunBegins : Prop :=
  ∀ (tag : Byte) (p : List Byte) (s : State), Ready s → p.length = 5 → s.scn.op = .idle →
    s.scn.endWaits = false →
    (u8 p 2 ∉ [8, 16, 32] →
      ∃ t, exec (.calRun tag p) s = .next t ∧ Replied s t ⟨0x98#8, tag, [2#8]⟩) ∧
    (u8 p 2 ∈ [8, 16, 32] → s.trc.valid = false →
      ∃ t, exec (.calRun tag p) s = .next t ∧ Replied s t ⟨0x98#8, tag, [3#8]⟩) ∧
    (u8 p 2 ∈ [8, 16, 32] → s.trc.valid = true →
      ∃ t u, exec (.calRun tag p) s = .next t ∧
        Replied u t ⟨0x98#8, tag, [0#8, byte (u8 p 2), byte (max 4096 (u16 p 3)),
          byte (max 4096 (u16 p 3) / 256), 1#8]⟩ ∧
        (s.trc.braking = true →
          u = (((s.setScn { s.scn with op := .positioning }).setNtu { s.ntu with
            haltedCond := false }).setCap { s.cap with
              cal := some (CalRun.start (u8 p 2) (max 4096 (u16 p 3))) }).setTrc { s.trc with
                queued := some (.move (u16 p 0)) }) ∧
        (s.trc.braking = false → s.trc.position.toNat ≠ u16 p 0 →
          u = (((s.setScn { s.scn with op := .positioning }).setNtu { s.ntu with
            haltedCond := false }).setCap { s.cap with
              cal := some (CalRun.start (u8 p 2) (max 4096 (u16 p 3))) }).setTrc { s.trc with
                motion := .moving
                target := some (u16 p 0)
                dir := if s.trc.position.toNat < u16 p 0 then .forward else .backward
                interval := s.scn.setup.lp }) ∧
        (s.trc.braking = false → s.trc.position.toNat = u16 p 0 →
          u = (((s.setScn { s.scn with op := .calibrating }).setNtu { s.ntu with
            haltedCond := false }).setCap { s.cap with
              lamp := .off
              warmup := false
              cal := some { CalRun.start (u8 p 2) (max 4096 (u16 p 3)) with
                phase := .darkSettle } }).setTrc { s.trc with
                motion := .parked
                target := none
                interval := 0 }))

/-- CAL_LOAD in IDLE: a segment beyond W or of more than 256 values is refused and writes nothing; a taken one
writes its values into its columns of its table and into no other entry of any table, and sets the valid flag
to the validate option (R7, R14). -/
def Obligations.CalLoadWritesItsSegment : Prop :=
  ∀ (tag : Byte) (p : List Byte) (s : State), Ready s → s.scn.op = .idle → p.length ≤ 1024 →
    p.length = 7 + 2 * u16 p 5 → u8 p 0 ≤ 3 → u8 p 1 ≤ 1 → u8 p 2 ≤ 1 →
    (256 < u16 p 5 ∨ s.scn.setup.w < u16 p 3 + u16 p 5 →
      ∃ t, exec (.calLoad tag p) s = .next t ∧ Replied s t ⟨0x99#8, tag, [2#8]⟩) ∧
    (u16 p 5 ≤ 256 → u16 p 3 + u16 p 5 ≤ s.scn.setup.w → s.cap.tablesWf = true →
      ∃ t c, exec (.calLoad tag p) s = .next t ∧
        Replied (s.setCap { s.cap with
          dark := c.dark, gain := c.gain, valid := decide (u8 p 2 = 1) }) t
          ⟨0x99#8, tag, [0#8, byte (u8 p 2)]⟩ ∧
        ∀ ch table x, ch ≤ 3 → table ≤ 1 → Table.read (Cap.table c ch table) x =
          if ch = u8 p 0 ∧ table = u8 p 1 ∧ u16 p 3 ≤ x ∧ x < u16 p 3 + u16 p 5 then
            half (u16 p (7 + 2 * (x - u16 p 3)))
          else Table.read (s.cap.table ch table) x)

/-- CAL_READ: BUSY outside IDLE; refused for a count of 0, above 256 or beyond W; else answered with the valid
flag and the values of its columns, in column order, and nothing changes (R15, R198). -/
def Obligations.CalReadReportsTheTable : Prop :=
  ∀ (tag : Byte) (p : List Byte) (s : State), Ready s → p.length = 6 → u8 p 0 ≤ 3 → u8 p 1 ≤ 1 →
    (s.scn.op ≠ .idle →
      ∃ t, exec (.calRead tag p) s = .next t ∧ Replied s t ⟨0x9A#8, tag, [1#8, s.scn.op.code]⟩) ∧
    (s.scn.op = .idle → u16 p 4 = 0 ∨ 256 < u16 p 4 ∨ s.scn.setup.w < u16 p 2 + u16 p 4 →
      ∃ t, exec (.calRead tag p) s = .next t ∧ Replied s t ⟨0x9A#8, tag, [2#8]⟩) ∧
    (s.scn.op = .idle → 1 ≤ u16 p 4 → u16 p 4 ≤ 256 → u16 p 2 + u16 p 4 ≤ s.scn.setup.w →
      ∃ t, exec (.calRead tag p) s = .next t ∧
        Replied s t ⟨0x9A#8, tag, [0#8, flagByte s.cap.valid] ++ le16 (u16 p 4) ++
          (List.range (u16 p 4)).flatMap fun i =>
            le16 (Table.read (s.cap.table (u8 p 0) (u8 p 1)) (u16 p 2 + i)).toNat⟩)

/-! ## Causes -/

/-- CAUSE_ENABLE, in every state: a set that names any other cause than the nine is refused; else it replaces
all nine enabled flags, changes no pending flag, marks the notice slot due if a newly enabled cause is pending,
and is answered with both sets (R191); that the reply leaves ahead of a NOTICE made due in the same row is log 32,
the model's reading of R175. -/
def Obligations.CauseEnableReplacesTheSet : Prop :=
  ∀ (tag : Byte) (p : List Byte) (s : State) (set : CauseSet), Ready s → p.length = 2 →
    set = BitVec.ofNat 9 (u16 p 0) →
    ∃ t, exec (.causeEnable tag p) s = .next t ∧
      if u16 p 0 < 512 then
        Replied ((s.setNtu { s.ntu with enabled := set }).setLif { s.lif with
          noticeDue := s.lif.noticeDue || decide (set &&& ~~~s.ntu.enabled &&& s.ntu.pending ≠ 0) }) t
          ⟨0x9C#8, tag, 0#8 :: (le16 set.toNat ++ le16 s.ntu.pending.toNat)⟩
      else Replied s t ⟨0x9C#8, tag, [2#8]⟩

/-- CAUSE_CLEAR, in every state: a set that names any other cause than the nine is refused; else the named
causes are cleared, those of HOLDER_OUT and HALTED that are named and whose condition holds are set again, the
setting of an enabled one marks the notice slot due, and the reply is the pending set that results (R189,
R192); that the reply leaves ahead of a NOTICE made due in the same row is log 32, the model's reading of R175. -/
def Obligations.CauseClearKeepsStandingLevels : Prop :=
  ∀ (tag : Byte) (p : List Byte) (s : State) (named held : CauseSet), Ready s → p.length = 2 →
    named = BitVec.ofNat 9 (u16 p 0) →
    held = named &&& ((if s.pins.holder then 0#9 else 0x004#9) |||
      (if s.ntu.haltedCond then 0x100#9 else 0#9)) →
    ∃ t, exec (.causeClear tag p) s = .next t ∧
      if u16 p 0 < 512 then
        Replied ((s.setNtu { s.ntu with pending := (s.ntu.pending &&& ~~~named) ||| held }).setLif { s.lif with
          noticeDue := s.lif.noticeDue || decide (held &&& s.ntu.enabled ≠ 0) }) t
          ⟨0x9D#8, tag, 0#8 :: le16 ((s.ntu.pending &&& ~~~named) ||| held).toNat⟩
      else Replied s t ⟨0x9D#8, tag, [2#8]⟩

/-! ## Operations that end early -/

/-- ABORT outside a scan. IDLE, STOPPING, and DRAINING with SCAN_END due change nothing; FAULTED goes to IDLE
at once, and a carriage that brakes from the fault brakes on. A MOVE or a HOME brakes to a stop in STOPPING,
its position and valid flag kept; one that still waits for an earlier braking to end is dropped, and the carriage
brakes on (that the stop order drops the command queued behind the braking is the model's choice, log 11); a HOME
whose edge has arrived with the ABORT and waits behind it finds the
carriage standing, and is IDLE at once with the position INVALID (that HOME_EDGE as the next command waiting
means this is log 36). The move of a calibration run brakes in STOPPING and a run in CALIBRATING
is IDLE at once, each with a CAL_DONE that reports ABORTED and the tables kept (R8, R13, R130, R132, R154,
R156, R160; the reply follows what happens at once, log 33; that it leaves ahead of the CAL_DONE of its row is
log 32). -/
def Obligations.AbortOutsideAScan : Prop :=
  ∀ (tag : Byte) (s : State) (stopped : Trc), Ready s → s.settleStep = none →
    stopped = { s.trc with
      scanOn := false
      lampReady := false
      ramp := none
      hold := false
      holdDone := false
      target := none
      queued := none
      current := .s0 } →
    (s.scn.op = .idle →
      ∃ t, exec (.abort tag []) s = .next t ∧ Replied s t ⟨0x84#8, tag, [0#8, 0#8]⟩) ∧
    (s.scn.op = .stopping →
      ∃ t, exec (.abort tag []) s = .next t ∧ Replied s t ⟨0x84#8, tag, [0#8, 6#8]⟩) ∧
    (s.scn.op = .draining → s.scn.endReason ≠ none →
      ∃ t, exec (.abort tag []) s = .next t ∧ Replied s t ⟨0x84#8, tag, [0#8, 5#8]⟩) ∧
    (s.scn.op = .faulted →
      ∃ t, exec (.abort tag []) s = .next t ∧
        Replied ((s.setScn { s.scn with op := .idle }).setNtu { s.ntu with haltedCond := false }) t
          ⟨0x84#8, tag, [0#8, 0#8]⟩) ∧
    (s.scn.op = .positioning → ∀ (brakes : Trc) (braked : State),
      (s.trc.braking = true ∧ brakes = stopped ∨
        s.trc.braking = false ∧
        (s.trc.motion = .moving ∨ s.trc.motion = .homing ∧ s.edgeWaits = false) ∧
        (s.trc.valid = false ∨
          s.trc.dir = .forward ∧ s.trc.position.toNat < 65535 ∨
          s.trc.dir = .backward ∧ 0 < s.trc.position.toNat) ∧
        brakes = { stopped with
          braking := true
          brakesLeft := 3
          interval := 2 * s.trc.interval }) →
      braked = ((s.setScn { s.scn with op := .stopping }).setNtu { s.ntu with
        haltedCond := false }).setTrc brakes →
      (s.cap.cal = none →
        ∃ t, exec (.abort tag []) s = .next t ∧ Replied braked t ⟨0x84#8, tag, [0#8, 6#8]⟩) ∧
      (∀ run, s.cap.cal = some run → s.reportsOpen = true →
        ∃ t, exec (.abort tag []) s = .next t ∧
          Replied (afterEarlyEnd s run .aborted braked) t ⟨0x84#8, tag, [0#8, 6#8]⟩)) ∧
    (s.scn.op = .positioning → s.edgeWaits = true → s.cap.cal = none → .scanEnd ∉ s.scn.due →
      s.cap.report = none →
      ∃ t, exec (.abort tag []) s = .next t ∧
        Replied (((s.setScn { s.scn with op := .idle }).setNtu { s.ntu with
          haltedCond := false }).setTrc { stopped with
            motion := .parked
            homing := none
            brakesLeft := 0
            interval := 0 }) t ⟨0x84#8, tag, [0#8, 0#8]⟩) ∧
    (∀ run, s.scn.op = .calibrating → s.cap.cal = some run → s.trc.motion = .parked →
      s.trc.braking = false → s.reportsOpen = true →
      ∃ t, exec (.abort tag []) s = .next t ∧
        Replied (afterEarlyEnd s run .aborted (((s.setScn { s.scn with op := .idle }).setNtu {
          s.ntu with haltedCond := false }).setTrc stopped)) t ⟨0x84#8, tag, [0#8, 0#8]⟩)

/-- ABORT and the removal of the holder in PREPARING, in SCANNING, or in DRAINING before SCAN_END is due:
every block's part of the scan is cleared, the markers not yet reached are aborted, SCAN_END is due after
them with its reason, and STOPPING is entered; ABORT is answered with the state that then results (R155,
R157, R162, R163; that the reply follows the reports placed at once is log 33, and the arbiter chooses at the end
of the row, log 32; a marker behind a head that waits for room is log 35; the settled limit and the preview offset
at the clearing are log 34). -/
def Obligations.AbortAndHolderStopTheScan : Prop :=
  ∀ s : State, (s.scn.op = .preparing ∨ s.scn.op = .scanning ∨
      (s.scn.op = .draining ∧ s.scn.endReason = none)) →
    (∀ tag : Byte, Ready s → ∃ u : State,
      exec (.abort tag []) s = .next ((u.settle.pushReply
        ⟨0x84#8, tag, [0#8, u.settle.scn.op.code]⟩).freeSlot).arbitrate ∧
      ScanCleared (s.setLif { s.lif with framer := .hunt, slot := some ⟨0x04#8, tag, []⟩ }) u ∧
      u.scn.op = .stopping ∧ u.scn.endReason = some .aborted ∧
      u.scn.markers = abortedMarkers s.scn.markers ∧
      u.scn.due = s.scn.due ++ abortedReports s.scn.markers ++ [.scanEnd] ∧
      u.pins = s.pins) ∧
    (s.pins.holder = true → ∃ u : State,
      exec .holderRemoved s = .next u.finish ∧
      ScanCleared s u ∧ u.scn.op = .stopping ∧ u.scn.endReason = some .holder ∧
      u.scn.markers = abortedMarkers s.scn.markers ∧
      u.scn.due = s.scn.due ++ abortedReports s.scn.markers ++ [.scanEnd] ∧
      u.pins.holder = false ∧ u.ntu.pending &&& 0x004#9 = 0x004#9)

/-- Outside a scan, and in DRAINING with SCAN_END due, the removal of the holder raises HOLDER_OUT and nothing
else; its insertion acts on nothing but the level (R157, R160, R189; a repeated level is no edge, log 29). -/
def Obligations.HolderOutsideAScan : Prop :=
  ∀ s : State, Quiet s → s.scn.op ≠ .preparing → s.scn.op ≠ .scanning →
    (s.scn.op = .draining → s.scn.endReason ≠ none) →
    exec .holderInserted s = .next (s.setPins { s.pins with holder := true }) ∧
    (s.pins.holder = true → exec .holderRemoved s =
      .next ((s.setPins { s.pins with holder := false }).raise .holderOut).arbitrate) ∧
    (s.pins.holder = false → exec .holderRemoved s = .next s)

/-! ## The carriage's inputs -/

/-- The HOME input in a HOME move. Its edge in SEEKING ends the move at once at position 0, VALID. The end of the
level in LEAVING turns the move to seek. Without the edge the 65,535th step of the move, in either phase, is
HOME_FAILED, with the position INVALID and a FAULT of line 0 (R128, R132, R159, R163, R164); that HOME_STEP_LIMIT
performs this step itself, as a MOTOR_STEP does, is log 17. Otherwise, in every operation state, in the move of a
calibration run and while the carriage brakes, only the level follows. That a HOME_EDGE at a level that is already
active is no edge and keeps the level, SEEKING included, is the model's choice (log 29). -/
def Obligations.HomingFollowsTheInput : Prop :=
  ∀ s : State, Quiet s →
    (s.pins.home = true ∨ s.trc.motion ≠ .homing ∨ s.trc.braking = true ∨
        s.trc.homing.map (·.phase) ≠ some .seeking →
      exec .homeEdge s = .next (s.setPins { s.pins with home := true })) ∧
    (s.trc.motion ≠ .homing ∨ s.trc.braking = true ∨ s.trc.homing.map (·.phase) ≠ some .leaving →
      exec .homeReleased s = .next (s.setPins { s.pins with home := false })) ∧
    (s.scn.op = .positioning → s.cap.cal = none → s.trc.braking = false →
      (∀ (n : Nat) (arrived : State), s.trc.motion = .homing → s.trc.homing = some ⟨.seeking, n⟩ →
        s.pins.home = false → arrived = (((s.setPins { s.pins with home := true }).setScn { s.scn with
          op := .idle }).setNtu { s.ntu with haltedCond := false }).setTrc { s.trc with
            position := 0
            valid := true
            motion := .parked
            homing := none
            target := none
            ramp := none
            hold := false
            holdDone := false
            current := .s0
            brakesLeft := 0
            interval := 0
            queued := none } →
        exec .homeEdge s = .next arrived) ∧
      (∀ n, s.trc.motion = .homing → s.trc.homing = some ⟨.leaving, n⟩ →
        exec .homeReleased s = .next ((s.setPins { s.pins with home := false }).setTrc { s.trc with
          homing := some ⟨.seeking, n⟩
          dir := .backward })) ∧
      (∀ (phase : HomingPhase) (next : Half) (elapsed : Nat) (c : Instr),
        c = .homeStepLimit ∨ c = .motorStep false elapsed →
        s.trc.motion = .homing → s.trc.homing = some ⟨phase, 65534⟩ →
        (phase = .seeking ∧ s.trc.dir = .backward ∧ next = s.trc.position - 1 ∨
          phase = .leaving ∧ s.trc.dir = .forward ∧ s.pins.endStop = false ∧ next = s.trc.position + 1) →
        s.trc.valid = false → s.cap.gateOpen = false → s.reportsOpen = true →
        exec c s = .next ((((s.setScn { s.scn with op := .faulted }).setNtu { s.ntu with
          haltedCond := false }).setTrc { s.trc with
            position := next
            motion := .parked
            homing := none
            target := none
            ramp := none
            hold := false
            holdDone := false
            current := .s0
            brakesLeft := 0
            interval := 0
            queued := none }).setLif { s.lif with
              reports := s.lif.reports ++ [⟨0x45#8, 0#8, [3#8, 1#8, 0#8, 0#8,
                byte next.toNat, byte (next.toNat / 256), 0#8]⟩] }).arbitrate))

/-- The END edge: a standing carriage only sees the level; a moving or braking one stops at once with
END_STOP raised. In a move it is a fault with its FAULT, which in the move of a calibration run follows a
CAL_DONE that reports ABORTED; a command that waits behind a braking is dropped, which is the model's choice (log
11); in STOPPING it is the stop event; outside a move and a scan, as in IDLE and
FAULTED while the carriage still brakes, it is no fault; and in a scan it clears the scan, with FAULT due
first, the aborted markers after it and SCAN_END last (R8, R131, R158 to R160, R163; what a FAULT that is due
holds is log 10; the arbiter chooses at the end of the row, log 32; the settled limit and the preview offset at
the clearing are log 34). -/
def Obligations.EndEdgeStopsTheCarriage : Prop :=
  ∀ s : State,
    (Quiet s → s.trc.motion = .parked → s.trc.braking = false →
      exec .endEdge s = .next (s.setPins { s.pins with endStop := true })) ∧
    (s.trc.motion ≠ .parked ∨ s.trc.braking = true → ∀ (v : State) (fault : Record),
      v = ((s.setPins { s.pins with endStop := true }).setTrc { s.trc with
        motion := .parked
        braking := false
        homing := none
        target := none
        ramp := none
        hold := false
        holdDone := false
        current := .s0
        brakesLeft := 0
        interval := 0
        queued := none }).raise .endStop →
      fault = ⟨0x45#8, 0#8, [2#8, 1#8, 0#8, 0#8, byte s.trc.position.toNat,
        byte (s.trc.position.toNat / 256), flagByte s.trc.valid]⟩ →
      (Quiet s → s.scn.op = .positioning → s.cap.cal = none → s.reportsOpen = true →
        exec .endEdge s = .next (((v.setScn { s.scn with op := .faulted }).setNtu { v.ntu with
          haltedCond := false }).setLif { v.lif with reports := s.lif.reports ++ [fault] }).arbitrate) ∧
      (∀ run, Quiet s → s.scn.op = .positioning → s.cap.cal = some run → s.reportsOpen = true →
        s.lif.reports.length + 2 ≤ 8 →
        exec .endEdge s = .next ((afterEarlyEnd v run .aborted ((v.setScn { s.scn with
          op := .faulted }).setNtu { v.ntu with haltedCond := false })).pushReport fault).arbitrate) ∧
      (Quiet s → s.scn.op = .stopping → .scanEnd ∉ s.scn.due → s.cap.report = none →
        exec .endEdge s = .next ((v.setScn { s.scn with op := .idle }).setNtu { v.ntu with
          haltedCond := false }).arbitrate) ∧
      (Quiet s → s.scanRuns = false → s.scn.op ≠ .positioning → s.scn.op ≠ .stopping →
        exec .endEdge s = .next v.arbitrate) ∧
      (s.scn.op = .preparing ∨ s.scn.op = .scanning ∨ (s.scn.op = .draining ∧ s.scn.endReason = none) →
        ∃ u : State, exec .endEdge s = .next u.finish ∧ ScanCleared s u ∧ u.trc.motion = .parked ∧
          u.trc.braking = false ∧ u.scn.op = .faulted ∧ u.scn.endReason = some .fault ∧
          u.scn.endFault = some .endStop ∧ u.scn.markers = abortedMarkers s.scn.markers ∧
          u.scn.due = s.scn.due ++ [.fault ⟨.endStop, s.scn.op, 0⟩] ++ abortedReports s.scn.markers ++ [.scanEnd] ∧
          u.pins.endStop = true ∧ u.ntu.pending &&& 0x020#9 = 0x020#9))

/-! ## The carriage's steps -/

/-- A step of a carriage that makes a MOVE, a calibration run's move or a HOME: the position counts it, and the
interval is LP. At the target of a MOVE the carriage is PARKED and the device IDLE; at that of a calibration
run the dark settle begins with the lamp OFF. A HOME counts its steps up to the limit, and its position wraps
while it is INVALID (R8, R9, R128, R129, R132, R133). With END active a forward step is not issued, and the row
is what the END edge is (R131). END becoming inactive just before the row leaves the row as it is at that level
(R131, log 7). -/
def Obligations.MotorStepMovesTheCarriage : Prop :=
  ∀ (elapsed : Nat) (next : Half) (s : State),
    exec (.motorStep true elapsed) s =
      exec (.motorStep false elapsed) (s.setPins { s.pins with endStop := false }) ∧
    (s.trc.motion ≠ .parked → s.trc.braking = false → s.trc.dir = .forward → s.pins.endStop = true →
      (s.trc.motion = .approaching → s.trc.position.toNat ≠ s.trc.resumePos) →
      exec (.motorStep false elapsed) s = exec .endEdge s) ∧
    (Quiet s → s.scn.op = .positioning → s.cap.gateOpen = false → s.trc.braking = false →
      (s.trc.dir = .forward ∧ s.pins.endStop = false ∧ next = s.trc.position + 1 ∧
          (s.trc.valid = true → s.trc.position.toNat < 65535) ∨
        s.trc.dir = .backward ∧ next = s.trc.position - 1 ∧
          (s.trc.valid = true → 0 < s.trc.position.toNat)) →
      (∀ g, s.trc.motion = .moving → s.trc.target = some g → next.toNat ≠ g →
        exec (.motorStep false elapsed) s =
          .next (s.setTrc { s.trc with position := next, interval := s.scn.setup.lp })) ∧
      (∀ arrived : Trc, s.trc.motion = .moving → s.trc.target = some next.toNat →
        arrived = { s.trc with position := next, motion := .parked, target := none, interval := 0 } →
        (s.cap.cal = none → exec (.motorStep false elapsed) s =
          .next (((s.setScn { s.scn with op := .idle }).setNtu { s.ntu with haltedCond := false }).setTrc
            arrived)) ∧
        (∀ run, s.cap.cal = some run → exec (.motorStep false elapsed) s =
          .next ((((s.setScn { s.scn with op := .calibrating }).setNtu { s.ntu with
            haltedCond := false }).setTrc arrived).setCap { s.cap with
              lamp := .off
              warmup := false
              cal := some { run with phase := .darkSettle } }))) ∧
      (∀ phase n, s.trc.motion = .homing → s.trc.homing = some ⟨phase, n⟩ → n + 1 < 65535 →
        exec (.motorStep false elapsed) s = .next (s.setTrc { s.trc with
          position := next
          homing := some ⟨phase, n + 1⟩
          interval := s.scn.setup.lp })))

/-- Steps in scan transport. A backtrack steps at LP, and on its target the approach begins, at the resolved
grade with no ramp and no hold; an approach steps at its grade up to the resume position. There, with that step
or, where the approach began on it, at once, the gate opens, the resume line starts and the carriage is
CRUISING: a re-seek after a halt, and SCANNING out of PREPARING. A line-step in CRUISING with no line in flight
starts the next line (R1, R128, R129, R138, R141, R142, R151, R152). -/
def Obligations.MotorStepStartsLines : Prop :=
  ∀ (elapsed : Nat) (next : Half) (s : State), Quiet s → s.trc.braking = false → s.cap.inFlight = none →
    (s.trc.motion = .backtracking → s.scn.op = .preparing ∨ s.scn.op = .scanning → s.cap.gateOpen = false →
      (s.trc.dir = .forward ∧ s.pins.endStop = false ∧ s.trc.position.toNat < 65535 ∧
          next = s.trc.position + 1 ∨
        s.trc.dir = .backward ∧ 0 < s.trc.position.toNat ∧ next = s.trc.position - 1) →
      (∀ g, s.trc.target = some g → next.toNat ≠ g →
        exec (.motorStep false elapsed) s =
          .next (s.setTrc { s.trc with position := next, interval := s.scn.setup.lp })) ∧
      (s.trc.target = some next.toNat →
        exec (.motorStep false elapsed) s = .next (s.setTrc { s.trc with
          position := next
          motion := .approaching
          target := some s.trc.resumePos
          current := s.trc.resolved
          ramp := none
          hold := false
          dir := .forward
          interval := s.trc.resolved.period s.scn.setup.lp }))) ∧
    (s.trc.dir = .forward → s.trc.motion = .approaching → s.scn.op = .preparing ∨ s.scn.op = .scanning →
      (s.trc.position.toNat + 1 < s.trc.resumePos → s.pins.endStop = false → s.trc.position.toNat < 65535 →
        s.cap.gateOpen = false →
        exec (.motorStep false elapsed) s = .next (s.setTrc { s.trc with
          position := s.trc.position + 1
          interval := s.trc.nextInterval s.scn.setup.lp elapsed })) ∧
      (s.trc.position.toNat = s.trc.resumePos ∧ next = s.trc.position ∨
          s.trc.position.toNat + 1 = s.trc.resumePos ∧ next = s.trc.position + 1 ∧
            s.pins.endStop = false ∧ s.trc.position.toNat < 65535 →
        s.trc.ring ≠ .s0 → s.trc.table ≠ .s0 →
        ∃ u : State, exec (.motorStep false elapsed) s = .next u ∧
          u.cap = { s.cap with
            gateOpen := true
            inFlight := some ⟨s.cap.nextLine, []⟩
            nextLine := s.cap.nextLine + 1
            watchdog := true } ∧
          u.trc = { s.trc with
            position := next
            motion := .cruising
            target := none
            interval := s.trc.nextInterval s.scn.setup.lp elapsed } ∧
          u.scn = { s.scn with
            op := .scanning
            reseeks := if 0 < s.trc.resumeLine then min 65535 (s.scn.reseeks + 1) else s.scn.reseeks } ∧
          u.ntu = { s.ntu with
            haltedCond := if s.scn.op = .preparing then false else s.ntu.haltedCond } ∧
          u.rng = s.rng ∧ u.frd = s.frd ∧ u.dfd = s.dfd ∧ u.rpe = s.rpe ∧ u.coe = s.coe ∧ u.lif = s.lif ∧
          u.pins = s.pins)) ∧
    (s.trc.dir = .forward → s.pins.endStop = false → s.trc.position.toNat < 65535 →
      s.trc.motion = .cruising → s.cap.gateOpen = true → s.scn.op = .scanning →
      exec (.motorStep false elapsed) s = .next ((s.setCap { s.cap with
        inFlight := some ⟨s.cap.nextLine, []⟩
        nextLine := s.cap.nextLine + 1
        watchdog := true }).setTrc { s.trc with
          position := s.trc.position + 1
          interval := s.trc.nextInterval s.scn.setup.lp elapsed }))

/-- A late line, by the watchdog or by a line-step with the gate OPEN: in SCANNING it is a fault that clears
the scan, with LINE_LATE raised, and the FAULT carries the late line and, as it enters the report queue, the
carriage as it then stands; in a capture phase of a calibration run it ends the run with CAL_DONE reporting
LATE, the tables kept (R3, R13, R158, R163, R186; what a FAULT that is due holds is log 10; the arbiter chooses
at the end of the row, log 32; the settled limit and the preview offset at the clearing are log 34). A stopped
watchdog does nothing, which is the model's choice (log 3). -/
def Obligations.LateLinesEndTheOperation : Prop :=
  ∀ s : State,
    (s.cap.watchdog = false → exec .watchdogExpiry s = .next s) ∧
    (∀ f, s.scn.op = .scanning → s.cap.inFlight = some f → ∀ (c : Instr) (s1 : State),
      (c = .watchdogExpiry ∧ s.cap.watchdog = true ∧ s1 = s ∨
        ∃ (released : Bool) (elapsed : Nat), c = .motorStep released elapsed ∧ s.cap.gateOpen = true ∧
          s.trc.motion = .cruising ∧ s.trc.braking = false ∧ s.trc.dir = .forward ∧
          (s.pins.endStop = true → released = true) ∧ s.trc.position.toNat < 65535 ∧
          s1 = (s.setPins { s.pins with endStop := false }).setTrc { s.trc with
            position := s.trc.position + 1 }) →
      ∃ u : State, exec c s = .next u.finish ∧ ScanCleared s1 u ∧ u.scn.op = .faulted ∧
        u.scn.endReason = some .fault ∧ u.scn.endFault = some .lineLate ∧
        u.scn.markers = abortedMarkers s.scn.markers ∧
        u.scn.due = s.scn.due ++ [.fault ⟨.lineLate, .scanning, f.number⟩] ++ abortedReports s.scn.markers ++ [.scanEnd] ∧
        u.ntu.pending &&& 0x008#9 = 0x008#9) ∧
    (∀ (line : Nat) (rest : List ScnReport), s.scn.due = .fault ⟨.lineLate, .scanning, line⟩ :: rest →
      s.placeScn = (s.setScn { s.scn with due := rest }).setLif { s.lif with
        reports := s.lif.reports ++ [⟨0x45#8, 0#8, [1#8, 4#8, byte line, byte (line / 256),
          byte s.trc.position.toNat, byte (s.trc.position.toNat / 256), flagByte s.trc.valid]⟩] }) ∧
    (∀ f run, s.scn.op = .calibrating → s.cap.cal = some run → s.cap.inFlight = some f →
      s.trc.motion = .parked → s.trc.braking = false → ∀ c : Instr,
      (c = .watchdogExpiry ∧ s.cap.watchdog = true ∨ c = .calLineTimer ∧ s.cap.calTimer = true) →
      ∃ u : State, exec c s = .next u.finish ∧ u.scn = { s.scn with op := .stopping } ∧
        u.cap = { s.cap with
          gateOpen := false
          inFlight := none
          watchdog := false
          calTimer := false
          cal := none
          report := some ⟨.late, run.lines, run.target, ⟨0, 0, 0, 0⟩, s.cap.valid⟩ } ∧
        u.ntu.pending &&& 0x008#9 = 0x008#9)

/-- A braking step counts into the position, and each later interval is twice the one before. The last one is
the stop event: in scan transport the carriage waits for the grade, holds, or backtracks where the hold is over;
a HOME, MOVE or calibration move taken during the braking begins; STOPPING ends when nothing else is due; and a
drain whose other conditions hold ends with SCAN_END COMPLETE (R128, R130, R133, R141, R154, R160, R164; the
count of braking steps left, and the end of the hold noted during the braking, are log 19). With END active a
forward step is not issued, and the row is what the END edge is (R131). END becoming inactive just before the
row leaves the row as it is at that level (R131, log 7). None comes from a carriage that does not brake: the row
then changes nothing, which is the model's choice (log 3). -/
def Obligations.BrakingStepsEndInTheStop : Prop :=
  ∀ (next : Half) (s : State),
    exec (.brakingStep true) s = exec (.brakingStep false) (s.setPins { s.pins with endStop := false }) ∧
    (s.trc.braking = true → s.trc.dir = .forward → s.pins.endStop = true →
      exec (.brakingStep false) s = exec .endEdge s) ∧
    (Quiet s → s.trc.braking = false → exec (.brakingStep false) s = .next s) ∧
    (Quiet s → s.cap.gateOpen = false → s.trc.braking = true →
      (s.trc.dir = .forward ∧ s.pins.endStop = false ∧ next = s.trc.position + 1 ∧
          (s.trc.valid = true → s.trc.position.toNat < 65534) ∨
        s.trc.dir = .backward ∧ next = s.trc.position - 1 ∧
          (s.trc.valid = true → 1 < s.trc.position.toNat)) →
      (2 ≤ s.trc.brakesLeft → exec (.brakingStep false) s = .next (s.setTrc { s.trc with
        position := next
        brakesLeft := s.trc.brakesLeft - 1
        interval := 2 * s.trc.interval })) ∧
      (∀ halted : Trc, s.trc.brakesLeft = 1 →
        halted = { s.trc with
          position := next
          motion := .parked
          braking := false
          homing := none
          target := none
          queued := none
          brakesLeft := 0
          interval := 0 } →
        (s.trc.queued = none → s.trc.scanOn = false → s.scn.op.plain = true →
          exec (.brakingStep false) s = .next (s.setTrc halted)) ∧
        (s.trc.queued = none → s.trc.scanOn = true → s.scn.op.plain = true →
          exec (.brakingStep false) s = .next (s.setTrc (
            if s.trc.lampReady = false ∨ s.trc.resolved = .s0 then halted
            else if s.trc.holdDone = false then { halted with hold := true }
            else if next.toNat = s.trc.resumePos - 48 then
              { halted with
                hold := false
                holdDone := false
                motion := .approaching
                target := some s.trc.resumePos
                current := s.trc.resolved
                ramp := none
                dir := .forward
                interval := s.trc.resolved.period s.scn.setup.lp }
            else
              { halted with
                hold := false
                holdDone := false
                motion := .backtracking
                target := some (s.trc.resumePos - 48)
                dir := if next.toNat < s.trc.resumePos - 48 then .forward else .backward
                interval := s.scn.setup.lp }))) ∧
        (s.trc.queued = some .home → s.scn.op = .positioning →
          exec (.brakingStep false) s = .next (s.setTrc { halted with
            motion := .homing
            homing := some ⟨if s.pins.home then .leaving else .seeking, 0⟩
            dir := if s.pins.home then .forward else .backward
            interval := s.scn.setup.lp })) ∧
        (∀ g, s.trc.queued = some (.move g) → s.scn.op = .positioning → next.toNat ≠ g →
          exec (.brakingStep false) s = .next (s.setTrc { halted with
            motion := .moving
            target := some g
            dir := if next.toNat < g then .forward else .backward
            interval := s.scn.setup.lp })) ∧
        (s.trc.queued = some (.move next.toNat) → s.scn.op = .positioning → s.cap.cal = none →
          exec (.brakingStep false) s = .next (((s.setScn { s.scn with op := .idle }).setNtu { s.ntu with
            haltedCond := false }).setTrc halted)) ∧
        (s.trc.queued = none → s.trc.scanOn = false → s.scn.op = .stopping → .scanEnd ∉ s.scn.due →
          s.cap.report = none →
          exec (.brakingStep false) s = .next (((s.setScn { s.scn with op := .idle }).setNtu { s.ntu with
            haltedCond := false }).setTrc halted)) ∧
        (s.trc.queued = none → s.trc.scanOn = false → s.scn.op = .draining → s.scn.endReason = none →
          s.scn.endFault = none → s.rng.lines = [] → s.frd.table = [] → s.dfd.regions = [] →
          s.coe.rows = [] → s.scn.markers = [] → s.reportsOpen = true →
          exec (.brakingStep false) s = .next (((((s.setScn { s.scn with
            op := .idle
            drain := ⟨true, true, true, true, true⟩
            endReason := some .complete }).setNtu { s.ntu with haltedCond := false }).setCoe {
              s.coe with previewDone := true }).setTrc halted).setLif { s.lif with
                reports := s.lif.reports ++ [⟨0x46#8, 0#8, [0#8, 0#8] ++
                  le16 s.scn.setup.n ++ le16 s.scn.captured ++ le16 s.scn.frames ++ le16 s.scn.slivers ++
                  le16 s.scn.reseeks ++ [byte s.scn.abandoned] ++ s.frd.outside.bytes⟩] }).arbitrate)))

/-- The end of the hold: a raise ramp toward the resolved grade while the carriage runs at a grade; the
backtrack of a halted carriage that stands, or the approach where it already stands at the target; and, while a
halted carriage still brakes, a note that the hold is over, which its stop event reads (R139, R141, R142; the
note is log 19). A hold timer that does not run does nothing, which is the
model's choice (log 3). -/
def Obligations.HoldTimerRaisesOrResumes : Prop :=
  ∀ s : State, Quiet s → s.scn.op.plain = true →
    (s.trc.hold = false → exec .holdTimerExpiry s = .next s) ∧
    (s.trc.hold = true → s.trc.motion = .approaching ∨ s.trc.motion = .cruising →
      s.trc.braking = false →
      exec .holdTimerExpiry s = .next (s.setTrc { s.trc with
        hold := false
        ramp := some s.trc.resolved })) ∧
    (s.trc.hold = true → s.trc.scanOn = true → s.trc.braking = true →
      exec .holdTimerExpiry s = .next (s.setTrc { s.trc with hold := false, holdDone := true })) ∧
    (s.trc.hold = true → s.trc.scanOn = true → s.trc.motion = .parked → s.trc.braking = false →
      s.trc.resolved ≠ .s0 →
      exec .holdTimerExpiry s = .next (s.setTrc (
        if s.trc.position.toNat = s.trc.resumePos - 48 then
          { s.trc with
            hold := false
            holdDone := false
            motion := .approaching
            target := some s.trc.resumePos
            current := s.trc.resolved
            ramp := none
            dir := .forward
            interval := s.trc.resolved.period s.scn.setup.lp }
        else
          { s.trc with
            hold := false
            holdDone := false
            motion := .backtracking
            target := some (s.trc.resumePos - 48)
            dir := if s.trc.position.toNat < s.trc.resumePos - 48 then .forward else .backward
            interval := s.scn.setup.lp })))

/-- The end of a ramp step: the current grade moves one grade toward the target; at the target the ramp ends,
and a resolved grade below starts a lowering ramp, one above the hold, an equal one nothing (R138 to R140). With no
ramp under way the row changes nothing, which is the model's choice (log 3). -/
def Obligations.RampStepsMoveTheGrade : Prop :=
  ∀ (s : State) (g c : Grade), Quiet s → s.scn.op.plain = true →
    (s.trc.ramp = none → exec .rampStepEnd s = .next s) ∧
    (s.trc.ramp = some g →
      (s.trc.current.num < g.num ∧ c.num = s.trc.current.num + 1 ∨
        g.num < s.trc.current.num ∧ c.num + 1 = s.trc.current.num) →
      exec .rampStepEnd s = .next (s.setTrc (
        if c ≠ g then { s.trc with current := c }
        else if s.trc.resolved.num < c.num then { s.trc with current := c, ramp := some s.trc.resolved }
        else if c.num < s.trc.resolved.num then { s.trc with current := c, ramp := none, hold := true }
        else { s.trc with current := c, ramp := none })))

/-! ## Lines -/

/-- Pixels fill the line in flight up to W; with none in flight they are discarded. A scan line that completes
is corrected and stands in the ring, counted by lines captured and lines remaining, and it is offered to the Frame
Detector, the Defect Detector and the Preview Reducer; the Defect Detector takes it with the bases of before its own
update of them, and either detector may come first (R40, R61; an operand, log 8). Release is evaluated after the
append and after the line has been handled (log 22). After the last line the gate is shut and the scan enters
DRAINING: the carriage is ordered to park, the holdback is lifted, release is evaluated and the preview tail is
settled. An evaluation of release drops the oldest lines that may leave, up to the first that may not, and reports
the first line left (R2, R4, R6, R22, R25 to R28, R30, R31, R122, R125, R144, R153; pixels as lists, log 15). -/
def Obligations.PixelsFillTheLineInFlight : Prop :=
  ∀ (dfdFirst : Bool) (px : List Pixel) (s : State),
    (Quiet s → s.cap.inFlight = none → exec (.lineComplete dfdFirst px) s = .next s) ∧
    (∀ f, Quiet s → s.scn.op.plain = true → s.cap.inFlight = some f →
      f.received.length + px.length < s.scn.setup.w →
      exec (.lineComplete dfdFirst px) s = .next (s.setCap { s.cap with
        inFlight := some ⟨f.number, f.received ++ px⟩ })) ∧
    (∀ f, s.arbiterWaits = true → s.scn.op = .scanning → s.cap.cal = none → s.cap.inFlight = some f →
      s.scn.setup.w ≤ f.received.length + px.length → 1 ≤ s.cap.remaining →
      ∃ t, exec (.lineComplete dfdFirst px) s = .next t ∧
        t.cap.inFlight = none ∧ t.cap.watchdog = false ∧ t.cap.nextLine = s.cap.nextLine ∧
        t.cap.remaining = s.cap.remaining - 1 ∧ t.scn.captured = s.scn.captured + 1 ∧
        (s.cap.remaining = 1 → t.cap.gateOpen = false ∧ t.trc.scanOn = false ∧
          t.scn.op ≠ .scanning) ∧
        (2 ≤ s.cap.remaining → t.scn.op = .scanning ∧
          ∃ l ∈ t.rng.lines, l.number = f.number ∧
            l.pixels = s.cap.correctLine 0 ((f.received ++ px).take s.scn.setup.w))) ∧
    (∀ (f : Flight) (line : List Pixel) (appended counted handled offered : State), s.scn.op = .scanning →
      s.cap.inFlight = some f → s.scn.setup.w ≤ f.received.length + px.length →
      line = s.cap.correctLine 0 ((f.received ++ px).take s.scn.setup.w) →
      appended = ((s.setCap { s.cap with inFlight := none, watchdog := false }).setRng
        ⟨s.rng.lines ++ [⟨f.number, line, List.replicate line.length false, false⟩]⟩).post .ring
          (if s.rng.lines.length < 95 then .s3 else if s.rng.lines.length < 111 then .s2
            else if s.rng.lines.length < 127 then .s1 else .s0) →
      counted = ((appended.setCap { appended.cap with
        remaining := s.cap.remaining - 1
        gateOpen := appended.cap.gateOpen && decide (2 ≤ s.cap.remaining) }).setScn { appended.scn with
          captured := s.scn.captured + 1 }).ringRelease →
      handled = (if dfdFirst then
          (counted.dfdLine f.number s.frd.baseR s.frd.baseIR line).frdLine f.number line
        else (counted.frdLine f.number line).dfdLine f.number s.frd.baseR s.frd.baseIR line) →
      offered = (handled.previewLine line).ringRelease →
      (2 ≤ s.cap.remaining → exec (.lineComplete dfdFirst px) s = .next offered.finish) ∧
      (s.cap.remaining ≤ 1 → ∃ parks : State,
        exec (.lineComplete dfdFirst px) s = .next parks.ringRelease.previewTail.finish ∧
        parks.scn = { offered.scn with op := .draining } ∧ (∀ n, parks.holdbackAllows n = true) ∧
        parks.trc.scanOn = false ∧ parks.trc.current = .s0 ∧
        (parks.trc.braking = true ∨ parks.trc.motion = .parked) ∧ parks.cap = offered.cap ∧
        parks.rng = offered.rng ∧ parks.frd = offered.frd ∧ parks.dfd = offered.dfd ∧
        parks.rpe = offered.rpe ∧ parks.coe = offered.coe)) ∧
    (∃ k, s.ringRelease.rng.lines = s.rng.lines.drop k ∧ k ≤ s.rng.lines.length ∧
      (∀ l ∈ s.rng.lines.take k, MayLeave s l.number) ∧
      (∀ l, s.rng.lines[k]? = some l → ¬MayLeave s l.number ∧
        (0 < k → s.ringRelease.scn.firstHeld = l.number)) ∧
      (∀ l, 0 < k → k = s.rng.lines.length → s.rng.lines.getLast? = some l →
        s.ringRelease.scn.firstHeld = l.number + 1) ∧
      (k = 0 → s.ringRelease = s))

/-- Flat-field correction, sample by sample, from the tables of the column (R6). -/
def Obligations.FlatFieldCorrectsEachSample : Prop :=
  ∀ (c : Cap) (raw : List Pixel),
    (c.correctLine 0 raw).length = raw.length ∧
    ∀ (x : Nat) (p : Pixel), raw[x]? = some p → ∃ q, (c.correctLine 0 raw)[x]? = some q ∧
      (∀ (v d g w : Half), (v, d, g, w) ∈
        [(p.r, Table.read c.dark.r x, Table.read c.gain.r x, q.r),
          (p.g, Table.read c.dark.g x, Table.read c.gain.g x, q.g),
          (p.b, Table.read c.dark.b x, Table.read c.gain.b x, q.b),
          (p.ir, Table.read c.dark.ir x, Table.read c.gain.ir x, q.ir)] →
        w.toNat = min 65535 (((v.toNat - d.toNat) * g.toNat + 2048) / 4096))

/-- The gain of each column of a channel: a strong column's from its own span; a weak column's that of the
nearest strong column to its left, else to its right; 4,096 where no column is strong (R11). -/
def Obligations.GainsFollowTheStrongColumns : Prop :=
  ∀ (target : Nat) (span : List Nat) (x : Nat), x < span.length →
    (∀ y, y < span.length → 1024 ≤ span.getD y 0 →
      (y = x ∨
        (y < x ∧ ∀ z, y < z → z ≤ x → span.getD z 0 < 1024) ∨
        (x < y ∧ ∀ z, z < y → span.getD z 0 < 1024)) →
      (channelGains target span)[x]? = some (min 65535 (target * 4096 / span.getD y 0))) ∧
    ((∀ y, y < span.length → span.getD y 0 < 1024) → (channelGains target span)[x]? = some 4096)

/-! ## Frames, defects, repair and output -/

/-- The Frame Detector at a line. The green mean of the detect window against the green base makes it gap-like,
image-like or neutral. In GAP image-like lines are counted and summed, and the one that completes IMAGE_MIN
creates a TENTATIVE frame from the first of them, with the pending profile promoted; a gap-like line moves the
three bases. In IMAGE gap-like lines are counted up to GAP_MIN, where the current frame is closed by gap or,
while TENTATIVE, is a sliver; the 32nd line completes the probe: edges, number, format test, rectangle and
FRAME_OPEN; the line top + MFL - 1 is a forced close and the scan's last line a scan-end close. A close sets
bottom, reason and last row; a rejected frame not passed places its FRAME_DONE and is freed as it enters. On the
scan's last line a frame just created is a sliver, and one whose probe completes is closed (R36 to R40, R43 to R47,
R49 to R55, R109, R112, R113, R173; the run that a change of the classifier leaves standing is log 21). -/
def Obligations.FramesAreFoundNumberedAndClosed : Prop :=
  (∀ (s : State) (n : Nat) (px : List Pixel), s.frd.classifier = .gap →
    classify s.setup s.frd.baseG (mean s.setup ((window s.setup px).map (·.g.toNat))) = .imageLike →
    s.frd.imageRun + 1 = s.setup.imageMin → s.setup.imageMin < 32 → s.setup.imageMin ≤ n + 1 →
    n + 1 < s.setup.n →
    (s.frdLine n px).frd.table = s.frd.table ++ [⟨n + 1 - s.setup.imageMin,
      s.coe.pendingProfile.getD s.coe.active, ⟨0, 0, 0, 0, 0, 0⟩, none, none⟩] ∧
    (s.frdLine n px).frd.classifier = .image ∧
    (s.frdLine n px).coe.active = s.coe.pendingProfile.getD s.coe.active ∧
    (s.frdLine n px).coe.pendingProfile = none ∧
    (s.frdLine n px).trc.table = (if 8 ≤ s.frd.table.length + 1 then .s0 else .s3)) ∧
  (∀ (s : State) (n mR mG mIR : Nat) (px : List Pixel) (win : List Pixel) (greens : List Nat) (cls : LineClass),
    win = (px.drop s.setup.wl).take (s.setup.wr + 1 - s.setup.wl) →
    greens = win.map (·.g.toNat) →
    mR = (win.map (·.r.toNat)).sum / (s.setup.wr + 1 - s.setup.wl) →
    mG = greens.sum / (s.setup.wr + 1 - s.setup.wl) →
    mIR = (win.map (·.ir.toNat)).sum / (s.setup.wr + 1 - s.setup.wl) →
    (s.frd.baseG * s.setup.gl ≤ mG * 256 ∧ cls = .gapLike ∨
      mG * 256 < s.frd.baseG * s.setup.gl ∧ mG * 256 < s.frd.baseG * s.setup.il ∧ cls = .imageLike ∨
      mG * 256 < s.frd.baseG * s.setup.gl ∧ s.frd.baseG * s.setup.il ≤ mG * 256 ∧ cls = .neutral) →
    (s.frd.classifier = .gap →
      (cls = .gapLike → (s.frdLine n px).frd = { s.frd with
        imageRun := 0
        baseR := max 256 ((7 * s.frd.baseR + mR + 4) / 8)
        baseG := max 256 ((7 * s.frd.baseG + mG + 4) / 8)
        baseIR := max 256 ((7 * s.frd.baseIR + mIR + 4) / 8)
        handled := n }) ∧
      (cls = .neutral → (s.frdLine n px).frd = { s.frd with imageRun := 0, handled := n }) ∧
      (cls = .imageLike → s.frd.imageRun + 1 < s.setup.imageMin → (s.frdLine n px).frd = { s.frd with
        imageRun := s.frd.imageRun + 1
        probe := addSums (if s.frd.imageRun = 0 then [] else s.frd.probe) greens
        handled := n }) ∧
      (cls = .imageLike → s.frd.imageRun + 1 = s.setup.imageMin → s.setup.imageMin < 32 →
        s.setup.imageMin ≤ n + 1 → n + 1 = s.setup.n →
        (s.frdLine n px).frd = { s.frd with
          classifier := .image
          imageRun := s.frd.imageRun + 1
          gapRun := 0
          probe := []
          handled := n } ∧
        (s.frdLine n px).scn.slivers = s.scn.slivers + 1 ∧
        (s.frdLine n px).coe.active = s.coe.pendingProfile.getD s.coe.active ∧
        (s.frdLine n px).coe.pendingProfile = none ∧
        (s.frdLine n px).trc.table = (if 8 ≤ s.frd.table.length then .s0 else .s3))) ∧
    (∀ (before : List Frame) (f : Frame) (run : Nat) (sums : List Nat) (z : State),
      s.frd.classifier = .image → s.frd.table = before ++ [f] →
      run = (if cls = .gapLike then s.frd.gapRun + 1 else 0) →
      sums = (if f.probed = none ∧ n < f.top + 32 then addSums s.frd.probe greens else s.frd.probe) →
      z = s.setFrd { s.frd with probe := sums, gapRun := run } →
      (run < s.setup.gapMin → n + 1 < s.setup.n → (f.probed = none → n + 1 ≠ f.top + 32) →
        (f.probed ≠ none → f.closed ≠ none ∨ n + 1 ≠ f.top + s.setup.mfl) →
        (s.frdLine n px).frd = { z.frd with handled := n }) ∧
      (f.probed = none → s.setup.gapMin ≤ run ∨ n + 1 = s.setup.n ∧ n + 1 ≠ f.top + 32 →
        (s.frdLine n px).frd = { z.frd with
          table := before
          probe := []
          outside := s.frd.outside.add f.tally
          classifier := if s.setup.gapMin ≤ run then .gap else .image
          imageRun := if s.setup.gapMin ≤ run then 0 else s.frd.imageRun
          handled := n } ∧
        (s.frdLine n px).scn.slivers = s.scn.slivers + 1 ∧
        (s.frdLine n px).trc.table = (if 8 ≤ before.length then .s0 else .s3) ∧
        (s.frdLine n px).lif.reports = s.lif.reports) ∧
      (∀ p, f.probed = some p → f.closed = none →
        (s.setup.gapMin ≤ run → ∃ u : State, u = (z.setFrd { z.frd with
            classifier := .gap, imageRun := 0 }).closeFrame f p (n - s.setup.gapMin) .gap ∧
          (s.frdLine n px).frd = { u.frd with handled := n } ∧ (s.frdLine n px).lif = u.lif ∧
          (s.frdLine n px).trc = u.trc ∧ (s.frdLine n px).scn = u.scn) ∧
        (run < s.setup.gapMin → n + 1 = s.setup.n → ∃ u : State, u = z.closeFrame f p n .scanEnd ∧
          (s.frdLine n px).frd = { u.frd with handled := n } ∧ (s.frdLine n px).lif = u.lif ∧
          (s.frdLine n px).trc = u.trc ∧ (s.frdLine n px).scn = u.scn) ∧
        (run < s.setup.gapMin → n + 1 < s.setup.n → n + 1 = f.top + s.setup.mfl →
          ∃ u : State, u = z.closeFrame f p n .forced ∧
          (s.frdLine n px).frd = { u.frd with
            table := u.frd.table ++ [⟨n + 1, s.coe.pendingProfile.getD s.coe.active, ⟨0, 0, 0, 0, 0, 0⟩,
              none, none⟩]
            gapRun := 0
            probe := []
            handled := n } ∧
          (s.frdLine n px).lif.reports = u.lif.reports ∧
          (s.frdLine n px).coe.active = s.coe.pendingProfile.getD s.coe.active ∧
          (s.frdLine n px).coe.pendingProfile = none ∧
          (s.frdLine n px).trc.table = (if 8 ≤ u.frd.table.length + 1 then .s0 else .s3)))) ∧
    (∀ (before : List Frame) (f : Frame) (run : Nat) (z opened : State) (p q : Probed) (payload : List Byte),
      (s.frd.classifier = .image ∧ s.frd.table = before ++ [f] ∧ f.probed = none ∧
          run = (if cls = .gapLike then s.frd.gapRun + 1 else 0) ∧ run < s.setup.gapMin ∧
          z = s.setFrd { s.frd with probe := addSums s.frd.probe greens, gapRun := run } ∨
        s.frd.classifier = .gap ∧ cls = .imageLike ∧ s.frd.imageRun + 1 = s.setup.imageMin ∧
          s.setup.imageMin = 32 ∧ before = s.frd.table ∧
          f = ⟨n - 31, s.coe.pendingProfile.getD s.coe.active, ⟨0, 0, 0, 0, 0, 0⟩, none, none⟩ ∧
          z = ((s.setCoe { s.coe with
            active := s.coe.pendingProfile.getD s.coe.active
            pendingProfile := none }).setFrd { s.frd with
              classifier := .image
              imageRun := 32
              gapRun := 0
              probe := addSums (if s.frd.imageRun = 0 then [] else s.frd.probe) greens
              table := before ++ [f] }).post .table (if 8 ≤ before.length + 1 then .s0 else .s3)) →
      n + 1 = f.top + 32 → s.setup.mfl ≠ 32 → p = probedOf s.setup z.frd f →
      payload = frameOpenPayload f p s.frd.baseG →
      (∀ g ∈ before, ∀ q, g.probed = some q → q.number ≠ s.frd.nextNumber) →
      (z.reportsOpen = true ∧ s.frd.waiting = [] ∧ q = { p with openReported := true } ∧
          opened = ((z.setFrd { z.frd with
            table := before ++ [{ f with probed := some q }]
            nextNumber := s.frd.nextNumber + 1 }).setScn { z.scn with frames := z.scn.frames + 1 }).setLif {
              z.lif with reports := z.lif.reports ++ [⟨0x41#8, 0#8, payload⟩] } ∨
        z.reportsOpen = false ∧ q = p ∧
          opened = ((z.setFrd { z.frd with
            table := before ++ [{ f with probed := some q }]
            nextNumber := s.frd.nextNumber + 1
            waiting := s.frd.waiting ++ [.frameOpen s.frd.nextNumber payload] }).setScn { z.scn with
              frames := z.scn.frames + 1 }).setLif { z.lif with waitList :=
                if .frd ∈ z.lif.waitList then z.lif.waitList else z.lif.waitList ++ [.frd] }) →
      (f.closed ≠ none ∨ n + 1 ≠ s.setup.n →
        (s.frdLine n px).frd = { opened.frd with handled := n } ∧ (s.frdLine n px).scn = opened.scn ∧
        (s.frdLine n px).lif = opened.lif ∧ (s.frdLine n px).trc = opened.trc) ∧
      (f.closed = none → n + 1 = s.setup.n →
        ∃ u : State, u = opened.closeFrame { f with probed := some q } q n .scanEnd ∧
          (s.frdLine n px).frd = { u.frd with handled := n } ∧ (s.frdLine n px).scn = u.scn ∧
          (s.frdLine n px).lif = u.lif ∧ (s.frdLine n px).trc = u.trc))) ∧
  (∀ (s : State) (before : List Frame) (f : Frame) (p : Probed) (c : Closed), s.frd.table = before ++ [f] →
    f.probed = some p → f.closed = none →
    c.lastRow = min (s.setup.n - 1) (c.bottom + f.profile.mb) →
    (p.rejected = false ∨ p.passed = true →
      s.closeFrame f p c.bottom c.reason =
        s.setFrd { s.frd with table := before ++ [{ f with closed := some c }] }) ∧
    (p.rejected = true → p.passed = false → s.reportsOpen = false →
      s.closeFrame f p c.bottom c.reason = (s.setFrd { s.frd with
        table := before ++ [{ f with closed := some c }]
        waiting := s.frd.waiting ++ [.frameDone p.number] }).setLif { s.lif with waitList :=
          if .frd ∈ s.lif.waitList then s.lif.waitList else s.lif.waitList ++ [.frd] }) ∧
    (p.rejected = true → p.passed = false → s.reportsOpen = true → s.frd.waiting = [] →
      (∀ g ∈ before, ∀ q, g.probed = some q → q.number ≠ p.number) →
      ∃ u : State, u = s.closeFrame f p c.bottom c.reason ∧ u.frd = { s.frd with table := before } ∧
        u.lif.reports = s.lif.reports ++
          [⟨0x42#8, 0#8, frameDonePayload { f with closed := some c } p c⟩] ∧
        u.lif.waitList = s.lif.waitList ∧
        u.trc.table = (if 8 ≤ before.length then .s0 else .s3))) ∧
  (∀ (u : Setup) (c : Frd) (f : Frame) (p : Probed) (strong : Nat → Prop), p = probedOf u c f →
    (∀ x, strong x ↔ u.wl ≤ x ∧ x ≤ u.wr ∧ c.probe.getD (x - u.wl) 0 * 256 < c.baseG * u.edge * 32) →
    p.number = c.nextNumber ∧ p.nextRow = f.top - f.profile.mt ∧ p.openReported = false ∧
    (∀ l r, (∀ i, i < 8 → strong (l + i)) → (∀ x, u.wl ≤ x → x < l → ∃ i, i < 8 ∧ ¬strong (x + i)) →
      (∀ i, i < 8 → i ≤ r ∧ strong (r - i)) →
      (∀ x, r < x → x ≤ u.wr → ∃ i, i < 8 ∧ (x < i ∨ ¬strong (x - i))) →
      p.left = l ∧ p.right = r ∧ p.fallback = false) ∧
    ((∀ x, u.wl ≤ x → ∃ i, i < 8 ∧ ¬strong (x + i)) →
      p.left = u.wl ∧ p.right = u.wr ∧ p.fallback = true) ∧
    (∀ (wide : Nat → Prop), (∀ i, wide i ↔ (c.rules.get i).enabled = true ∧
        (c.rules.get i).least ≤ p.right + 1 - p.left ∧ p.right + 1 - p.left ≤ (c.rules.get i).most) →
      (∀ i, i ≤ 3 → wide i → (∀ j, j < i → ¬wide j) →
        p.rule = some i ∧ p.rejected = false ∧ p.passed = false) ∧
      ((∀ i, i ≤ 3 → ¬wide i) → p.rule = none ∧
        (p.rejected = true ↔ ∃ i, i ≤ 3 ∧ (c.rules.get i).enabled = true) ∧
        p.passed = (p.rejected && u.passRejected))) ∧
    (f.profile.fw = 0 → p.firstCol = (max u.wl (p.left - f.profile.mc) : Nat) ∧
      p.colCount = min u.wr (p.right + f.profile.mc) + 1 - max u.wl (p.left - f.profile.mc)) ∧
    (f.profile.fw ≠ 0 → p.firstCol = ((p.left + p.right) / 2 : Nat) - (f.profile.fw / 2 : Nat) ∧
      p.colCount = f.profile.fw))

/-- The Defect Detector at a line. A line's run list holds at most 32 runs: the first 31 as they are, the rest
joined into one that spans them and counts their raw pixels. A pixel is judged by its infrared ratio; adjacent
defects form raw runs, which are dilated and merged; the list enters the history, from which masks are written. A
run creates a region in the lowest empty slot, joins one, or merges several into the oldest; with no slot it is
untracked, and a region taller than 64 lines ends. A region without a run on the line is CLOSING; at its readiness
line, or at the last line of the scan, it is READY and queued, or with repair off it ends (R62, R64 to R69, R72
to R80, R88: each stage is a definition of the model that the clauses give in the rules' own terms). -/
def Obligations.DefectsAreMaskedAndTracked : Prop :=
  (∀ runs : List Run,
    (coalesce runs).length ≤ 32 ∧
    ((coalesce runs).map (·.raw)).sum = (runs.map (·.raw)).sum ∧
    (runs.length ≤ 32 → coalesce runs = runs) ∧
    (∀ i, i < 31 → (coalesce runs)[i]? = runs[i]?) ∧
    (∀ a z, 32 < runs.length → runs[31]? = some a → runs.getLast? = some z →
      ∃ r, (coalesce runs)[31]? = some r ∧ r.lo = a.lo ∧ r.hi = z.hi)) ∧
  (∀ (u : Setup) (baseR baseIR : Nat) (p : Pixel), isDefect u baseR baseIR p = true ↔
    min 1023 (min 65535 (p.ir.toNat + u.k * (baseR - p.r.toNat) / 256) * 256 / baseIR) < u.t) ∧
  (∀ (x : Nat) (cols : List Bool) (runs : List Run), runs = rawRuns x none cols →
    runs.Pairwise (fun a b => a.hi + 1 < b.lo) ∧
    ∀ r, r ∈ runs ↔ x ≤ r.lo ∧ r.lo ≤ r.hi ∧ r.raw = r.hi + 1 - r.lo ∧
      (∀ i, r.lo ≤ i → i ≤ r.hi → cols[i - x]? = some true) ∧
      (r.lo = x ∨ cols[r.lo - 1 - x]? = some false) ∧ cols[r.hi + 1 - x]? ≠ some true) ∧
  (∀ (runs ms : List Run), ms = mergeRuns runs → (∀ r ∈ runs, r.lo ≤ r.hi) →
    runs.Pairwise (fun a b => a.lo ≤ b.lo) →
    ms.Pairwise (fun a b => a.hi + 1 < b.lo) ∧
    (∀ x, (∃ m ∈ ms, m.lo ≤ x ∧ x ≤ m.hi) ↔ ∃ r ∈ runs, r.lo ≤ x ∧ x ≤ r.hi) ∧
    ∀ m ∈ ms, m.lo ≤ m.hi ∧
      m.raw = ((runs.filter fun r => decide (m.lo ≤ r.lo ∧ r.hi ≤ m.hi)).map (·.raw)).sum) ∧
  (∀ (s t : State) (n baseR baseIR : Nat) (px : List Pixel) (found runs : List Run),
    found = mergeRuns ((rawRuns s.setup.wl none (((px.drop s.setup.wl).take
      (s.setup.wr + 1 - s.setup.wl)).map (isDefect s.setup baseR baseIR))).map fun r =>
        ⟨max s.setup.wl (r.lo - s.setup.d), min s.setup.wr (r.hi + s.setup.d), r.raw⟩) →
    (t, runs) = s.dfdRuns n baseR baseIR px →
    runs = coalesce found ∧
    t.dfd = { s.dfd with
      history := (s.dfd.history.filter fun l => decide (n - 2 * s.setup.d ≤ l.line)) ++ [⟨n, runs⟩] } ∧
    (found.length ≤ 32 → t.frd = s.frd) ∧
    (32 < found.length → Charged s.frd t.frd n fun c => { c with coalesced := c.coalesced + 1 }) ∧
    t = (s.setFrd t.frd).setDfd t.dfd) ∧
  (∀ (s t : State) (j : Nat), t = s.maskLine j →
    t.dfd = { s.dfd with nextMask := j + 1 } ∧ t = (s.setRng t.rng).setDfd t.dfd ∧
    t.rng.lines.length = s.rng.lines.length ∧
    ∀ (i : Nat) (l : RingLine), s.rng.lines[i]? = some l →
      (l.number ≠ j → t.rng.lines[i]? = some l) ∧
      (l.number = j → ∃ k : RingLine, t.rng.lines[i]? = some k ∧ k.number = j ∧ k.pixels = l.pixels ∧
        k.final = true ∧ k.mask.length = s.setup.w ∧
        ∀ x, k.mask[x]? = some true ↔ x < s.setup.w ∧ ∃ h ∈ s.dfd.history,
          j ≤ h.line + s.setup.d ∧ h.line ≤ j + s.setup.d ∧ ∃ r ∈ h.runs, r.lo ≤ x ∧ x ≤ r.hi)) ∧
  (∀ (regions : List Region) (t : TestSpan), t ∈ testSpans regions ↔
    ∃ r ∈ regions, r.state = .opened ∧ r.lastSpan = some t.span ∧ r.slot = t.slot) ∧
  (∀ (s : State) (n : Nat) (run : Run) (tests : List TestSpan) (met : Region → Bool),
    s.dfd.regions.Pairwise (fun a b => a.slot < b.slot) →
    (∀ r, met r = true ↔
      ∃ t ∈ tests, t.slot = r.slot ∧ run.lo ≤ t.span.hi + 1 ∧ t.span.lo ≤ run.hi + 1) →
    ((∀ r ∈ s.dfd.regions, met r = false) →
      (∀ slot before after, s.dfd.regions = before ++ after → slot ≤ 63 →
        (∀ k, k < slot → ∃ r ∈ s.dfd.regions, r.slot = k) → (∀ r ∈ before, r.slot < slot) →
        (∀ r ∈ after, slot < r.slot) →
        State.trackRun n (s, tests) run = (s.setDfd { s.dfd with
          regions := before ++ ⟨slot, .opened, n, n, ⟨run.lo, run.hi⟩, none, some ⟨run.lo, run.hi⟩, run.raw,
            none, none⟩ :: after }, tests)) ∧
      ((∀ k, k < 64 → ∃ r ∈ s.dfd.regions, r.slot = k) → ∃ f,
        Charged s.frd f n (fun c => { c with untracked := c.untracked + 1 }) ∧
        State.trackRun n (s, tests) run = ((s.setFrd f).raise .regionTableFull, tests))) ∧
    (∀ before r after q, s.dfd.regions = before ++ r :: after → met r = true →
      (∀ o ∈ before ++ after, met o = false) →
      q = { r with
        last := n
        cols := ⟨min r.cols.lo run.lo, max r.cols.hi run.hi⟩
        gathered := some (match r.gathered with
          | some g => ⟨min g.lo run.lo, max g.hi run.hi⟩
          | none => ⟨run.lo, run.hi⟩)
        raw := r.raw + run.raw } →
      (n + 1 - r.first ≤ 64 →
        State.trackRun n (s, tests) run = (s.setDfd { s.dfd with regions := before ++ q :: after }, tests)) ∧
      (64 < n + 1 - r.first → ∃ f,
        Charged s.frd f r.first (fun c => { c with
          unrepairable := c.unrepairable + 1, pixelsUnrepaired := c.pixelsUnrepaired + q.raw }) ∧
        State.trackRun n (s, tests) run = ((s.setFrd f).setDfd { s.dfd with regions := before ++ after },
          tests.filter fun t => t.slot ≠ r.slot))) ∧
    (∀ (ms : List Region) (m q : Region) (moved : List TestSpan), ms = s.dfd.regions.filter met →
      2 ≤ ms.length → m ∈ ms →
      (∀ o ∈ ms, m.first < o.first ∨ m.first = o.first ∧ m.slot ≤ o.slot) →
      q = { m with
        last := n
        cols := ⟨ms.foldl (fun a o => min a o.cols.lo) run.lo, ms.foldl (fun a o => max a o.cols.hi) run.hi⟩
        gathered := some ⟨(ms.filterMap (·.gathered)).foldl (fun a g => min a g.lo) run.lo,
          (ms.filterMap (·.gathered)).foldl (fun a g => max a g.hi) run.hi⟩
        raw := (ms.map (·.raw)).sum + run.raw } →
      moved = (tests.map fun t =>
        if ms.any fun o => decide (o.slot ≠ m.slot ∧ o.slot = t.slot) then { t with slot := m.slot } else t) →
      (n + 1 - m.first ≤ 64 →
        State.trackRun n (s, tests) run = (s.setDfd { s.dfd with
          regions := (s.dfd.regions.filter fun o => !met o || decide (o.slot = m.slot)).map fun o =>
            if o.slot = m.slot then q else o }, moved)) ∧
      (64 < n + 1 - m.first → ∃ f,
        Charged s.frd f m.first (fun c => { c with
          unrepairable := c.unrepairable + 1, pixelsUnrepaired := c.pixelsUnrepaired + q.raw }) ∧
        State.trackRun n (s, tests) run = ((s.setFrd f).setDfd { s.dfd with
          regions := s.dfd.regions.filter fun o => !met o }, moved.filter fun t => t.slot ≠ m.slot)))) ∧
  (∀ (s t s3 s4 s5 s6 : State) (n baseR baseIR : Nat) (px : List Pixel) (runs : List Run),
    (t, runs) = s.dfdRuns n baseR baseIR px →
    s3 = (runs.foldl (State.trackRun n) (t, testSpans t.dfd.regions)).1 →
    s4 = s3.setDfd { s3.dfd with regions := s3.dfd.regions.map fun r =>
      if r.state = .opened then
        (if r.gathered = none then { r with state := .closing, lastSpan := none }
          else { r with lastSpan := r.gathered, gathered := none })
      else r } →
    s5 = (if s.setup.d ≤ n then s4.maskLine (n - s.setup.d) else s4) →
    s6 = s5.makeAllReady (s5.dfd.regions.filter fun r =>
      decide (r.state = .closing ∧ r.last + 2 * s.setup.d + 16 = n)) →
    s.dfdLine n baseR baseIR px = if n + 1 = s.setup.n then s6.dfdLast n else s6) ∧
  (∀ (s t : State) (n : Nat),
    t = (List.range' s.dfd.nextMask (n + 1 - s.dfd.nextMask)).foldl State.maskLine s →
    s.dfdLast n = (t.setDfd { t.dfd with history := [] }).makeAllReady (t.dfd.regions.filter fun r =>
      decide (r.state = .opened ∨ r.state = .closing))) ∧
  (∀ (s t : State) (regions l : List Region), regions.Pairwise (fun a b => a.slot < b.slot) →
    l.Perm regions → l.Pairwise (fun a b => a.first < b.first ∨ a.first = b.first ∧ a.slot < b.slot) →
    t = l.foldl State.makeReady s →
    s.makeAllReady regions = t.post .repair (if 16 ≤ t.rpe.queue.length then .s1
      else if 8 ≤ t.rpe.queue.length then .s2 else .s3)) ∧
  (∀ (s : State) (before after : List Region) (r : Region), s.dfd.regions = before ++ r :: after →
    (∀ o ∈ before ++ after, o.slot ≠ r.slot) →
    (s.setup.repair = true → s.rpe.current ≠ none →
      s.makeReady r = (s.setDfd { s.dfd with
        regions := before ++ { r with state := .ready, lastSpan := none } :: after }).setRpe
          { s.rpe with queue := s.rpe.queue ++ [r.slot] }) ∧
    (s.setup.repair = true → s.rpe.current = none → s.rpe.queue = [] →
      s.makeReady r = (s.setDfd { s.dfd with
        regions := before ++ { r with state := .repairing, lastSpan := none } :: after }).setRpe
          ⟨[], some ⟨r.slot, r.first, r.last, r.cols⟩, 0, 0⟩) ∧
    (s.setup.repair = false → ∃ f,
      Charged s.frd f r.first (fun c => { c with
        unrepairable := c.unrepairable + 1, pixelsUnrepaired := c.pixelsUnrepaired + r.raw }) ∧
      s.makeReady r = (s.setFrd f).setDfd { s.dfd with regions := before ++ after }))

/-- A repair changes the R, G and B samples of masked pixels in the box and nothing else in the ring. Each new
sample is the straight line between the neighbours of a pair, the two lines weighted by the other pair's span,
or the sample of the nearest neighbour, the neighbours sought up to 16 away among unmasked pixels of the window
and read as they stood before (R90 to R98). At its end the region is gone, its counts stand and are charged to
the oldest frame that has its first line, and the next region of the queue is taken, or the engine is IDLE (R56,
R87, R88, R99 to R101; the samples are written at REPAIR_COMPLETE, log 14; with no repair in progress nothing
happens, which is the model's choice, log 3). -/
def Obligations.RepairWritesMaskedPixelsOnly : Prop :=
  (∀ (u : Setup) (e : Repairing) (lines : List RingLine) (i : Nat) (l : RingLine), lines[i]? = some l →
    ∃ k, (repairRing u e lines)[i]? = some k ∧ k.number = l.number ∧ k.mask = l.mask ∧
      k.final = l.final ∧ k.pixels.length = l.pixels.length ∧
      ∀ (x : Nat) (p : Pixel), l.pixels[x]? = some p → ∃ q, k.pixels[x]? = some q ∧ q.ir = p.ir ∧
        (¬(e.first - u.d ≤ l.number ∧ l.number ≤ min (u.n - 1) (e.last + u.d) ∧
          e.cols.lo ≤ x ∧ x ≤ e.cols.hi ∧ l.mask.getD x false = true) → q = p) ∧
        (e.first - u.d ≤ l.number ∧ l.number ≤ min (u.n - 1) (e.last + u.d) ∧
          e.cols.lo ≤ x ∧ x ≤ e.cols.hi ∧ l.mask.getD x false = true → ∀ nb,
          nb = neighbours u e lines x l.number →
          (nb = ⟨none, none, none, none⟩ → q = p) ∧
          ∀ (chan : Pixel → Half) (v : Nat), chan ∈ [(·.r), (·.g), (·.b)] →
            newSample nb (fun d => sampleAt lines chan (x - d) l.number)
              (fun d => sampleAt lines chan (x + d) l.number)
              (fun d => sampleAt lines chan x (l.number - d))
              (fun d => sampleAt lines chan x (l.number + d)) = some v → chan q = half v)) ∧
  (∀ (u : Setup) (e : Repairing) (lines : List RingLine) (x y : Nat) (seek : Nat → Bool) (found : Option Nat),
    (found = (neighbours u e lines x y).left ∧
        (∀ d, seek d = (decide (u.wl + d ≤ x) && clearAt (lineAt lines y) (x - d))) ∨
      found = (neighbours u e lines x y).right ∧
        (∀ d, seek d = (decide (x + d ≤ u.wr) && clearAt (lineAt lines y) (x + d))) ∨
      found = (neighbours u e lines x y).up ∧
        (∀ d, seek d = (decide (d ≤ y ∧ e.first - u.d - 16 ≤ y - d) && clearAt (lineAt lines (y - d)) x)) ∨
      found = (neighbours u e lines x y).down ∧
        (∀ d, seek d = (decide (y + d ≤ min (u.n - 1) (e.last + u.d + 16)) &&
          clearAt (lineAt lines (y + d)) x))) →
    (∀ d, found = some d ↔ 1 ≤ d ∧ d ≤ 16 ∧ seek d = true ∧ ∀ c, 1 ≤ c → c < d → seek c = false) ∧
    (found = none ↔ ∀ d, 1 ≤ d → d ≤ 16 → seek d = false)) ∧
  (∀ (nb : Neighbours) (left right up down : Nat → Nat) (h v : Nat),
    (∀ l r, nb.left = some l → nb.right = some r → (nb.up = none ∨ nb.down = none) →
      newSample nb left right up down = some ((left l * r + right r * l + (l + r) / 2) / (l + r))) ∧
    (∀ a b, nb.up = some a → nb.down = some b → (nb.left = none ∨ nb.right = none) →
      newSample nb left right up down = some ((up a * b + down b * a + (a + b) / 2) / (a + b))) ∧
    (∀ l r a b, nb = ⟨some l, some r, some a, some b⟩ →
      h = (left l * r + right r * l + (l + r) / 2) / (l + r) →
      v = (up a * b + down b * a + (a + b) / 2) / (a + b) →
      newSample nb left right up down =
        some ((h * (a + b) + v * (l + r) + (l + r + (a + b)) / 2) / (l + r + (a + b)))) ∧
    ((nb.left = none ∨ nb.right = none) → (nb.up = none ∨ nb.down = none) →
      (∀ d, nb.left = some d → (∀ c, nb.up = some c ∨ nb.down = some c → d ≤ c) →
        newSample nb left right up down = some (left d)) ∧
      (∀ d, nb.right = some d → (∀ c, nb.up = some c ∨ nb.down = some c → d ≤ c) →
        newSample nb left right up down = some (right d)) ∧
      (∀ d, nb.up = some d → (∀ c, nb.left = some c ∨ nb.right = some c → d < c) →
        newSample nb left right up down = some (up d)) ∧
      (∀ d, nb.down = some d → (∀ c, nb.left = some c ∨ nb.right = some c → d < c) →
        newSample nb left right up down = some (down d)))) ∧
  (∀ s : State, s.rpe.current = none → exec .repairComplete s = .next s) ∧
  (∀ (s : State) (e : Repairing), s.arbiterWaits = true → s.rpe.current = some e → s.rpe.queue = [] →
    ∃ t, exec .repairComplete s = .next t ∧
      t.rpe = ⟨[], none, (repairCounts s.scn.setup e s.rng.lines).1,
        (repairCounts s.scn.setup e s.rng.lines).2⟩ ∧
      t.dfd.regions = s.dfd.regions.filter (fun r => r.slot ≠ e.slot) ∧ t.trc.repair = .s3) ∧
  (∀ (s : State) (e : Repairing) (r : Region), s.rpe.current = some e →
    s.dfd.regions.find? (fun r => r.slot = e.slot) = some r →
    ∃ u : State, exec .repairComplete s = .next u.finish ∧
      u.rng.lines <:+ repairRing s.scn.setup e s.rng.lines ∧
      Charged s.frd u.frd r.first (fun c => { c with
        repaired := c.repaired + 1
        pixelsRepaired := c.pixelsRepaired + (repairCounts s.scn.setup e s.rng.lines).1
        pixelsUnrepaired := c.pixelsUnrepaired + (repairCounts s.scn.setup e s.rng.lines).2 }) ∧
      u.trc.repair = (if 16 ≤ (s.rpe.queue.drop 1).length then .s1
        else if 8 ≤ (s.rpe.queue.drop 1).length then .s2 else .s3) ∧
      (∀ slot rest g, s.rpe.queue = slot :: rest → slot ≠ e.slot →
        s.dfd.regions.find? (fun r => r.slot = slot) = some g →
        u.rpe = ⟨rest, some ⟨slot, g.first, g.last, g.cols⟩, 0, 0⟩ ∧
        u.dfd.regions = (s.dfd.regions.filter fun r => r.slot ≠ e.slot).map fun r =>
          if r.slot = slot then { r with state := .repairing, lastSpan := none } else r))

/-- Output and preview. IDLE takes the first output frame of the table; its next row is sent once it is eligible,
as IMAGE segments of the row's pixels, each sample as the frame's depth sends it, and the last one raises the next
row and evaluates release; past the last row of a CLOSED frame, FRAME_DONE enters and the frame is freed. The
preview sums each line into boxes of eight columns; eight lines, or fewer at the scan's end, make a row, which is
queued or skipped, and is sent in records of 512 pixels. Every record fits the transmit payload limit of 2,048
bytes, and an IMAGE segment is 256 pixels, or 255 of four 16-bit channels, or the rest of its row (R50, R54, R114
to R116, R118 to R125; that the settled limit is taken at once from the last line handled, when a frame is taken for
output, is log 30). -/
def Obligations.OutputAndPreviewAreSent : Prop :=
  (∀ (s t : State) (r : Record), s.takeImage = some (r, t) → r.kind = 0x50#8 ∧ r.payload.length ≤ 2048) ∧
  (∀ (f : Frame) (p : Probed) (offset : Nat), segmentCount f p offset =
    min (if f.profile.infrared = true ∧ f.profile.eight = false then 255 else 256) (p.colCount - offset)) ∧
  (∀ (s t : State) (r : Record), s.takePreview = some (r, t) → r.kind = 0x51#8 ∧ r.payload.length ≤ 2048) ∧
  (∀ s : State,
    (s.coe.step = .sending ∨ s.coe.step = .closing → s.coeAdvance = none) ∧
    (s.coe.step = .idle →
      (∀ f ∈ s.frd.table, ∀ p, f.probed = some p → p.rejected = true ∧ p.passed = false) →
      s.coeAdvance = none) ∧
    (∀ before f after p, s.coe.step = .idle → s.frd.table = before ++ f :: after → f.probed = some p →
      p.rejected = false ∨ p.passed = true →
      (∀ g ∈ before, ∀ q, g.probed = some q →
        q.rejected = true ∧ q.passed = false ∧ q.number ≠ p.number) →
      s.coeAdvance = some (s.setCoe { s.coe with
        step := .waiting
        frame := some p.number
        segOffset := 0
        settled := if f.closed = none then
          min (s.setup.n - 1) (s.frd.handled - s.frd.gapRun + f.profile.mb) else s.coe.settled })) ∧
    (∀ f, s.coe.frame.bind s.frd.byNumber = some f →
      (f.closed = none → s.refreshSettled = s.setCoe { s.coe with
        settled := min (s.setup.n - 1) (s.frd.handled - s.frd.gapRun + f.profile.mb) }) ∧
      (f.closed ≠ none → s.refreshSettled = s)) ∧
    (∀ f p, s.coe.step = .waiting → s.coe.frame.bind s.frd.byNumber = some f → f.probed = some p →
      (∀ c, f.closed = some c → c.lastRow < p.nextRow →
        s.coeAdvance = some (s.setCoe { s.coe with step := .closing })) ∧
      ((∀ c, f.closed = some c → p.nextRow ≤ c.lastRow) → ∀ (ready : Prop),
        (ready ↔ p.openReported = true ∧ (∃ l, s.ringLine p.nextRow = some l ∧ l.final = true) ∧
          (∀ g ∈ s.dfd.regions, p.nextRow < g.first - s.setup.d ∨
            min (s.setup.n - 1) (g.last + s.setup.d) < p.nextRow) ∧
          (f.closed = none → p.nextRow ≤ s.coe.settled)) →
        (ready → s.coeAdvance = some (s.setCoe { s.coe with step := .sending })) ∧
        (¬ready → s.coeAdvance = none)))) ∧
  (∀ (u : Setup) (f : Frame) (p : Probed) (l : RingLine) (j : Nat) (c : Int) (px : Pixel)
      (sample : Half → List Byte),
    c = (if f.profile.mirror = true then p.firstCol + p.colCount - 1 - j else p.firstCol + j) →
    ((u.wl : Int) ≤ c ∧ c ≤ u.wr ∧ l.pixels[c.toNat]? = some px ∨
      (c < u.wl ∨ (u.wr : Int) < c) ∧ px = ⟨half f.profile.fill, half f.profile.fill, half f.profile.fill,
        half f.profile.fill⟩) →
    (∀ v, sample v = if f.profile.eight = true then [byte (min 255 ((v.toNat + 128) / 256))]
      else le16 v.toNat) →
    pixelBytes u f p l j = sample px.r ++ sample px.g ++ sample px.b ++
      (if f.profile.infrared = true then sample px.ir else [])) ∧
  (∀ (s : State) (before after : List Frame) (f : Frame) (p : Probed),
    s.frd.table = before ++ f :: after → f.probed = some p → s.coe.frame = some p.number →
    (∀ g ∈ before ++ after, ∀ q, g.probed = some q → q.number ≠ p.number) →
    (∀ l count next, s.coe.step = .sending → s.ringLine p.nextRow = some l →
      count = segmentCount f p s.coe.segOffset →
      next = (if s.coe.segOffset + count < p.colCount then
          s.setCoe { s.coe with segOffset := s.coe.segOffset + count }
        else ((s.setCoe { s.coe with segOffset := 0, step := .waiting }).setFrd { s.frd with
          table := before ++ { f with probed := some { p with nextRow := p.nextRow + 1 } } ::
            after }).ringRelease) →
      s.takeImage = some (⟨0x50#8, 0#8, le16 p.number ++ le16 p.nextRow ++ le16 s.coe.segOffset ++
        le16 count ++ (List.range count).flatMap fun i => pixelBytes s.setup f p l (s.coe.segOffset + i)⟩,
        next)) ∧
    (∀ c, s.coe.step = .closing → f.closed = some c → ∃ u : State, s.place .coe = u.ringRelease ∧
      u.lif.reports = s.lif.reports ++ [⟨0x42#8, 0#8,
        le16 p.number ++ [match c.reason with | .gap => 0#8 | .forced => 1#8 | .scanEnd => 2#8] ++
        le16 f.top ++ le16 c.bottom ++ le16 (f.top - f.profile.mt) ++ le16 c.lastRow ++
        le16 (if p.rejected = true ∧ p.passed = false then 0 else c.lastRow + 1 - (f.top - f.profile.mt)) ++
        [byte ((if p.rejected then 1 else 0) + (if p.passed then 2 else 0) + (if p.fallback then 4 else 0)),
          match p.rule with | some n => byte n | none => 0xFF#8] ++
        le32 f.tally.repaired ++ le32 f.tally.unrepairable ++ le32 f.tally.pixelsRepaired ++
        le32 f.tally.pixelsUnrepaired ++ le32 f.tally.untracked ++ le32 f.tally.coalesced⟩] ∧
      u.lif.waitList = s.lif.waitList ∧
      u.frd = { s.frd with table := before ++ after } ∧
      u.coe = { s.coe with step := .idle, frame := none, segOffset := 0 } ∧
      u.trc.table = (if 8 ≤ (before ++ after).length then .s0 else .s3)) ∧
    (∀ payload rest, s.frd.waiting = .frameOpen p.number payload :: rest →
      s.place .frd = (s.setLif { s.lif with reports := s.lif.reports ++ [⟨0x41#8, 0#8, payload⟩] }).setFrd
        { s.frd with
          waiting := rest
          table := before ++ { f with probed := some { p with openReported := true } } :: after })) ∧
  (∀ (s : State) (px : List Pixel) (boxes : List BoxSum), boxes = addBoxes s.coe.boxes px (s.setup.w / 8) →
    boxes.length = s.setup.w / 8 ∧
    (∀ (i : Nat) (old : BoxSum), i < s.setup.w / 8 → old = s.coe.boxes.getD i ⟨0, 0, 0⟩ →
      boxes[i]? = some ⟨old.r + (((px.drop (8 * i)).take 8).map (·.r.toNat)).sum,
        old.g + (((px.drop (8 * i)).take 8).map (·.g.toNat)).sum,
        old.b + (((px.drop (8 * i)).take 8).map (·.b.toNat)).sum⟩) ∧
    (s.coe.preview = false → s.previewLine px = s) ∧
    (s.coe.preview = true → s.coe.lineCount < 7 → s.previewLine px = s.setCoe { s.coe with
      boxes := boxes, lineCount := s.coe.lineCount + 1 }) ∧
    (s.coe.preview = true → s.coe.lineCount = 7 → s.previewLine px = (s.setCoe { s.coe with
      boxes := boxes, lineCount := 8 }).completePreviewRow)) ∧
  (∀ (s : State) (row : PreviewRow) (c : Coe) (sample : Nat → Byte), 1 ≤ s.coe.lineCount →
    (∀ sum, sample sum =
      byte (min 255 (((sum + 4 * s.coe.lineCount) / (8 * s.coe.lineCount) + 128) / 256))) →
    row = ⟨s.coe.rowIndex, s.coe.boxes.map fun b => (sample b.r, sample b.g, sample b.b)⟩ →
    c = { s.coe with boxes := [], lineCount := 0, rowIndex := s.coe.rowIndex + 1 } →
    (s.coe.rows.length < 2 → s.completePreviewRow = s.setCoe { c with rows := s.coe.rows ++ [row] }) ∧
    (2 ≤ s.coe.rows.length → s.completePreviewRow = (s.setCoe c).raise .previewSkipped) ∧
    (s.coe.preview = true → s.previewTail = s.completePreviewRow)) ∧
  (∀ s : State,
    (s.coe.preview = true → s.coe.lineCount = 0 → s.previewTail = s) ∧
    (s.coe.preview = false → s.previewTail = s.setCoe { s.coe with previewDone := true }) ∧
    (s.coe.rows = [] → s.takePreview = none) ∧
    (∀ row rest width count, s.coe.rows = row :: rest → width = row.pixels.length →
      count = min 512 (width - s.coe.previewOffset) →
      s.takePreview = some (⟨0x51#8, 0#8, le16 row.index ++ le16 width ++ le16 s.coe.previewOffset ++
        le16 count ++ ((row.pixels.drop s.coe.previewOffset).take count).flatMap fun (r, g, b) => [r, g, b]⟩,
        if s.coe.previewOffset + count < width then
          s.setCoe { s.coe with previewOffset := s.coe.previewOffset + count }
        else s.setCoe { s.coe with rows := rest, previewOffset := 0 })))

/-! ## Calibration runs -/

/-- The timers and lines of a calibration run and the lamp's warm-up: the warm-up's end is ON, which releases
a scan in PREPARING or begins the white capture; the settle's end begins the dark capture; the line timer
starts a line; a line adds its raw samples to the sums of its phase, and the last dark line, its averages
taken, switches the lamp on for the warm-up (R9, R10, R16, R143, R151). A warm-up timer that does not run does
nothing, which is the model's choice (log 3). -/
def Obligations.CalibrationRunAdvances : Prop :=
  ∀ s : State, Quiet s →
    (s.cap.warmup = false → exec .warmupExpiry s = .next s) ∧
    (s.cap.warmup = true → s.cap.cal = none → s.scn.op.plain = true → s.scn.op ≠ .preparing →
      exec .warmupExpiry s = .next (s.setCap { s.cap with lamp := .on, warmup := false })) ∧
    (s.cap.warmup = true → s.scn.op = .preparing →
      exec .warmupExpiry s = .next ((s.setCap { s.cap with lamp := .on, warmup := false }).setTrc {
        s.trc with
          lampReady := true
          hold := s.trc.hold || decide (s.trc.resolved ≠ .s0) })) ∧
    (∀ run, s.scn.op = .calibrating → s.cap.cal = some run →
      (s.cap.warmup = true → run.phase = .warmUp →
        exec .warmupExpiry s = .next (s.setCap { s.cap with
          lamp := .on
          warmup := false
          cal := some { run with phase := .whiteCapture, whiteSums := ⟨[], [], [], []⟩ }
          calCount := 0
          calTimer := true })) ∧
      (run.phase = .darkSettle →
        exec .darkSettleEnd s = .next (s.setCap { s.cap with
          cal := some { run with phase := .darkCapture, darkSums := ⟨[], [], [], []⟩ }
          calCount := 0
          calTimer := true })) ∧
      (s.cap.calTimer = true → s.cap.inFlight = none →
        exec .calLineTimer s = .next (s.setCap { s.cap with
          inFlight := some ⟨s.cap.calCount, []⟩
          watchdog := true })) ∧
      (∀ f px, s.cap.inFlight = some f → run.phase = .darkCapture → s.cap.calCount + 1 < run.lines →
        (f.received ++ px).length = s.scn.setup.w →
        exec (.calLineComplete px) s = .next (s.setCap { s.cap with
          inFlight := none
          watchdog := false
          calCount := s.cap.calCount + 1
          cal := some { run with darkSums :=
            ⟨addSums run.darkSums.r ((f.received ++ px).map (·.r.toNat)),
              addSums run.darkSums.g ((f.received ++ px).map (·.g.toNat)),
              addSums run.darkSums.b ((f.received ++ px).map (·.b.toNat)),
              addSums run.darkSums.ir ((f.received ++ px).map (·.ir.toNat))⟩ } })) ∧
      (∀ f px (sums : PerChannel (List Nat)), s.cap.inFlight = some f → run.phase = .darkCapture →
        s.cap.lamp = .off → s.cap.calCount + 1 = run.lines → (f.received ++ px).length = s.scn.setup.w →
        sums = ⟨addSums run.darkSums.r ((f.received ++ px).map (·.r.toNat)),
          addSums run.darkSums.g ((f.received ++ px).map (·.g.toNat)),
          addSums run.darkSums.b ((f.received ++ px).map (·.b.toNat)),
          addSums run.darkSums.ir ((f.received ++ px).map (·.ir.toNat))⟩ →
        exec (.calLineComplete px) s = .next (s.setCap { s.cap with
          inFlight := none
          watchdog := false
          calCount := s.cap.calCount + 1
          calTimer := false
          lamp := .warming
          warmup := true
          cal := some { run with
            phase := .warmUp
            darkSums := sums
            darkAvg := sums.map (List.map fun v => (v + run.lines / 2) / run.lines) } })) ∧
      (∀ f px, s.cap.inFlight = some f → run.phase = .whiteCapture → s.cap.calCount + 1 < run.lines →
        (f.received ++ px).length = s.scn.setup.w →
        exec (.calLineComplete px) s = .next (s.setCap { s.cap with
          inFlight := none
          watchdog := false
          calCount := s.cap.calCount + 1
          cal := some { run with whiteSums :=
            ⟨addSums run.whiteSums.r ((f.received ++ px).map (·.r.toNat)),
              addSums run.whiteSums.g ((f.received ++ px).map (·.g.toNat)),
              addSums run.whiteSums.b ((f.received ++ px).map (·.b.toNat)),
              addSums run.whiteSums.ir ((f.received ++ px).map (·.ir.toNat))⟩ } })))

/-- The last white line of a calibration run, with room in the report queue: the averages and gains are
written, the flag follows the verdict, CAL_DONE has entered, and the device is IDLE with the lamp as it
was. While the report queue is full, or other producers wait, the run is in its Report phase and the Capture Unit
waits behind them, with tables, flag and CALIBRATING kept; once a record that ends gives CAL_DONE the room, the
tables, the flag and IDLE follow as before (R10 to R12, R173, R199). -/
def Obligations.CalibrationResultsAreWritten : Prop :=
  (∀ (s : State) (run done : CalRun) (f : Flight) (px : List Pixel), Quiet s →
    s.scn.op = .calibrating → s.cap.cal = some run → run.phase = .whiteCapture →
    s.cap.inFlight = some f → (f.received ++ px).length = s.scn.setup.w →
    s.cap.calCount + 1 = run.lines → s.cap.report = none →
    done = CalRun.withGains { run with
      phase := .report
      whiteSums := PerChannel.zip addSums run.whiteSums (channelLists (f.received ++ px))
      whiteAvg := (PerChannel.zip addSums run.whiteSums (channelLists (f.received ++ px))).map
        (List.map (average run.lines)) } →
    (s.lif.reports.length = 8 ∨ s.lif.waitList ≠ [] → .cap ∉ s.lif.waitList →
      exec (.calLineComplete px) s = .next ((s.setCap { s.cap with
        inFlight := none
        watchdog := false
        calCount := s.cap.calCount + 1
        calTimer := false
        cal := some done
        report := some ⟨if calFailed s.scn.setup.w done.weak then .failed else .passed, run.lines, run.target,
          done.weak, !calFailed s.scn.setup.w done.weak⟩ }).setLif { s.lif with
            waitList := s.lif.waitList ++ [.cap] }).arbitrate) ∧
    (s.reportsOpen = true →
      exec (.calLineComplete px) s = .next ((((s.setCap { s.cap with
        dark := writeTables s.cap.dark run.darkAvg
        gain := writeTables s.cap.gain done.gains
        valid := !calFailed s.scn.setup.w done.weak
        inFlight := none
        watchdog := false
        calCount := s.cap.calCount + 1
        calTimer := false
        cal := none }).setScn { s.scn with op := .idle }).setNtu { s.ntu with haltedCond := false }).setLif {
          s.lif with reports := s.lif.reports ++ [⟨0x44#8, 0#8,
            [if calFailed s.scn.setup.w done.weak then 1#8 else 0#8, byte run.lines] ++ le16 run.target ++
            le16 done.weak.r ++ le16 done.weak.g ++ le16 done.weak.b ++ le16 done.weak.ir ++
            [flagByte (!calFailed s.scn.setup.w done.weak)]⟩] }).arbitrate)) ∧
  (∀ (s : State) (run : CalRun) (r : CalReport) (x taken : Record) (rest : List Record)
      (waiting : List Producer), s.settleStep = none → s.scn.op = .calibrating → s.cap.cal = some run →
    s.cap.report = some r →
    r.outcome = .passed ∧ r.valid = true ∨ r.outcome = .failed ∧ r.valid = false →
    s.lif.waitList = .cap :: waiting → s.lif.tx = some x → s.pins.linkHold = false → s.lif.replies = [] →
    s.lif.resetPending = false → s.lif.noticeDue = false → s.lif.reports = taken :: rest →
    exec .recordSent s = .next ((((s.setCap { s.cap with
      dark := writeTables s.cap.dark run.darkAvg
      gain := writeTables s.cap.gain run.gains
      valid := r.valid
      calTimer := false
      cal := none
      report := none }).setScn { s.scn with op := .idle }).setNtu { s.ntu with haltedCond := false }).setLif {
        s.lif with
          tx := some taken
          waitList := waiting
          reports := rest ++ [⟨0x44#8, 0#8, [if r.outcome = .failed then 1#8 else 0#8, byte r.lines] ++
            le16 r.target ++ le16 r.weak.r ++ le16 r.weak.g ++ le16 r.weak.b ++ le16 r.weak.ir ++
            [flagByte r.valid]⟩] }))

/-! ## The device as a whole -/

/-- The state after reset, at the levels of log 5 (R20, R147, R165, R178, R193), is within the limits and
safe for capture, with the tables of a scan in order. -/
def Obligations.ResetIsIdleAndSafe : Prop :=
  State.reset.scn.op = .idle ∧ State.reset.trc.position = 0 ∧ State.reset.trc.valid = false ∧
  State.reset.cap.lamp = .off ∧ State.reset.cap.valid = false ∧ State.reset.rng.lines = [] ∧
  State.reset.lif.replies = [] ∧ State.reset.lif.reports = [] ∧ State.reset.lif.tx = none ∧
  State.reset.ntu.enabled = 0#9 ∧ State.reset.pending = [] ∧
  WithinLimits State.reset ∧ CaptureSafe State.reset ∧ TablesInOrder State.reset

/-- Every step keeps the device within its limits: the capacities of its queues, the wait list without
repeats, the slot and the room that a front-end transfer holds, canonical tables and a setup in range (R19,
R20, R123, R161, R169, R171 to R173, R182). Every step from a state within the limits and safe for capture keeps
the tables of a scan in order: never more than 8 frames, their numbers distinct and rising (R42); never more than
64 regions, in distinct slots, none taller than 64 raw lines (R71); the lines of the ring numbered one after
another (R21). -/
def Obligations.StepsKeepTheLimits : Prop :=
  (∀ s t : State, WithinLimits s → step s = .next t → WithinLimits t) ∧
  (∀ s t : State, WithinLimits s → CaptureSafe s → TablesInOrder s → step s = .next t → TablesInOrder t)

/-- Every step keeps capture safe: the ring never holds more than 128 lines, the gate is open only in
SCANNING with the carriage cruising and no demand at S0, a line in flight always finds room, and lines stand
in the ring only in SCANNING and DRAINING (R1, R4, R21, R30, R135 to R137, R141, R148). -/
def Obligations.StepsKeepCaptureSafe : Prop :=
  ∀ s t : State, CaptureSafe s → step s = .next t → CaptureSafe t
end

