-- ==== Sys2Proof/Laws/State.lean ====
section
/-! SUPPORT. One lemma per field per update of State, so that no later proof unfolds a record update. -/

namespace Sys2Proof.Machine

section setCap

variable (s : State) (x : Cap)

@[simp] theorem State.setCap_cap : (s.setCap x).cap = x := rfl
@[simp] theorem State.setCap_rng : (s.setCap x).rng = s.rng := rfl
@[simp] theorem State.setCap_frd : (s.setCap x).frd = s.frd := rfl
@[simp] theorem State.setCap_dfd : (s.setCap x).dfd = s.dfd := rfl
@[simp] theorem State.setCap_rpe : (s.setCap x).rpe = s.rpe := rfl
@[simp] theorem State.setCap_coe : (s.setCap x).coe = s.coe := rfl
@[simp] theorem State.setCap_trc : (s.setCap x).trc = s.trc := rfl
@[simp] theorem State.setCap_scn : (s.setCap x).scn = s.scn := rfl
@[simp] theorem State.setCap_lif : (s.setCap x).lif = s.lif := rfl
@[simp] theorem State.setCap_ntu : (s.setCap x).ntu = s.ntu := rfl
@[simp] theorem State.setCap_pins : (s.setCap x).pins = s.pins := rfl
@[simp] theorem State.setCap_pending : (s.setCap x).pending = s.pending := rfl
@[simp] theorem State.setCap_setup : (s.setCap x).setup = s.setup := rfl
@[simp] theorem State.setCap_setCap (y : Cap) : (s.setCap x).setCap y = s.setCap y := rfl
@[simp] theorem State.setCap_self : s.setCap s.cap = s := rfl

end setCap

section setRng

variable (s : State) (x : Rng)

@[simp] theorem State.setRng_cap : (s.setRng x).cap = s.cap := rfl
@[simp] theorem State.setRng_rng : (s.setRng x).rng = x := rfl
@[simp] theorem State.setRng_frd : (s.setRng x).frd = s.frd := rfl
@[simp] theorem State.setRng_dfd : (s.setRng x).dfd = s.dfd := rfl
@[simp] theorem State.setRng_rpe : (s.setRng x).rpe = s.rpe := rfl
@[simp] theorem State.setRng_coe : (s.setRng x).coe = s.coe := rfl
@[simp] theorem State.setRng_trc : (s.setRng x).trc = s.trc := rfl
@[simp] theorem State.setRng_scn : (s.setRng x).scn = s.scn := rfl
@[simp] theorem State.setRng_lif : (s.setRng x).lif = s.lif := rfl
@[simp] theorem State.setRng_ntu : (s.setRng x).ntu = s.ntu := rfl
@[simp] theorem State.setRng_pins : (s.setRng x).pins = s.pins := rfl
@[simp] theorem State.setRng_pending : (s.setRng x).pending = s.pending := rfl
@[simp] theorem State.setRng_setup : (s.setRng x).setup = s.setup := rfl
@[simp] theorem State.setRng_setRng (y : Rng) : (s.setRng x).setRng y = s.setRng y := rfl
@[simp] theorem State.setRng_self : s.setRng s.rng = s := rfl

end setRng

section setFrd

variable (s : State) (x : Frd)

@[simp] theorem State.setFrd_cap : (s.setFrd x).cap = s.cap := rfl
@[simp] theorem State.setFrd_rng : (s.setFrd x).rng = s.rng := rfl
@[simp] theorem State.setFrd_frd : (s.setFrd x).frd = x := rfl
@[simp] theorem State.setFrd_dfd : (s.setFrd x).dfd = s.dfd := rfl
@[simp] theorem State.setFrd_rpe : (s.setFrd x).rpe = s.rpe := rfl
@[simp] theorem State.setFrd_coe : (s.setFrd x).coe = s.coe := rfl
@[simp] theorem State.setFrd_trc : (s.setFrd x).trc = s.trc := rfl
@[simp] theorem State.setFrd_scn : (s.setFrd x).scn = s.scn := rfl
@[simp] theorem State.setFrd_lif : (s.setFrd x).lif = s.lif := rfl
@[simp] theorem State.setFrd_ntu : (s.setFrd x).ntu = s.ntu := rfl
@[simp] theorem State.setFrd_pins : (s.setFrd x).pins = s.pins := rfl
@[simp] theorem State.setFrd_pending : (s.setFrd x).pending = s.pending := rfl
@[simp] theorem State.setFrd_setup : (s.setFrd x).setup = s.setup := rfl
@[simp] theorem State.setFrd_setFrd (y : Frd) : (s.setFrd x).setFrd y = s.setFrd y := rfl
@[simp] theorem State.setFrd_self : s.setFrd s.frd = s := rfl

end setFrd

section setDfd

variable (s : State) (x : Dfd)

@[simp] theorem State.setDfd_cap : (s.setDfd x).cap = s.cap := rfl
@[simp] theorem State.setDfd_rng : (s.setDfd x).rng = s.rng := rfl
@[simp] theorem State.setDfd_frd : (s.setDfd x).frd = s.frd := rfl
@[simp] theorem State.setDfd_dfd : (s.setDfd x).dfd = x := rfl
@[simp] theorem State.setDfd_rpe : (s.setDfd x).rpe = s.rpe := rfl
@[simp] theorem State.setDfd_coe : (s.setDfd x).coe = s.coe := rfl
@[simp] theorem State.setDfd_trc : (s.setDfd x).trc = s.trc := rfl
@[simp] theorem State.setDfd_scn : (s.setDfd x).scn = s.scn := rfl
@[simp] theorem State.setDfd_lif : (s.setDfd x).lif = s.lif := rfl
@[simp] theorem State.setDfd_ntu : (s.setDfd x).ntu = s.ntu := rfl
@[simp] theorem State.setDfd_pins : (s.setDfd x).pins = s.pins := rfl
@[simp] theorem State.setDfd_pending : (s.setDfd x).pending = s.pending := rfl
@[simp] theorem State.setDfd_setup : (s.setDfd x).setup = s.setup := rfl
@[simp] theorem State.setDfd_setDfd (y : Dfd) : (s.setDfd x).setDfd y = s.setDfd y := rfl
@[simp] theorem State.setDfd_self : s.setDfd s.dfd = s := rfl

end setDfd

section setRpe

variable (s : State) (x : Rpe)

@[simp] theorem State.setRpe_cap : (s.setRpe x).cap = s.cap := rfl
@[simp] theorem State.setRpe_rng : (s.setRpe x).rng = s.rng := rfl
@[simp] theorem State.setRpe_frd : (s.setRpe x).frd = s.frd := rfl
@[simp] theorem State.setRpe_dfd : (s.setRpe x).dfd = s.dfd := rfl
@[simp] theorem State.setRpe_rpe : (s.setRpe x).rpe = x := rfl
@[simp] theorem State.setRpe_coe : (s.setRpe x).coe = s.coe := rfl
@[simp] theorem State.setRpe_trc : (s.setRpe x).trc = s.trc := rfl
@[simp] theorem State.setRpe_scn : (s.setRpe x).scn = s.scn := rfl
@[simp] theorem State.setRpe_lif : (s.setRpe x).lif = s.lif := rfl
@[simp] theorem State.setRpe_ntu : (s.setRpe x).ntu = s.ntu := rfl
@[simp] theorem State.setRpe_pins : (s.setRpe x).pins = s.pins := rfl
@[simp] theorem State.setRpe_pending : (s.setRpe x).pending = s.pending := rfl
@[simp] theorem State.setRpe_setup : (s.setRpe x).setup = s.setup := rfl
@[simp] theorem State.setRpe_setRpe (y : Rpe) : (s.setRpe x).setRpe y = s.setRpe y := rfl
@[simp] theorem State.setRpe_self : s.setRpe s.rpe = s := rfl

end setRpe

section setCoe

variable (s : State) (x : Coe)

@[simp] theorem State.setCoe_cap : (s.setCoe x).cap = s.cap := rfl
@[simp] theorem State.setCoe_rng : (s.setCoe x).rng = s.rng := rfl
@[simp] theorem State.setCoe_frd : (s.setCoe x).frd = s.frd := rfl
@[simp] theorem State.setCoe_dfd : (s.setCoe x).dfd = s.dfd := rfl
@[simp] theorem State.setCoe_rpe : (s.setCoe x).rpe = s.rpe := rfl
@[simp] theorem State.setCoe_coe : (s.setCoe x).coe = x := rfl
@[simp] theorem State.setCoe_trc : (s.setCoe x).trc = s.trc := rfl
@[simp] theorem State.setCoe_scn : (s.setCoe x).scn = s.scn := rfl
@[simp] theorem State.setCoe_lif : (s.setCoe x).lif = s.lif := rfl
@[simp] theorem State.setCoe_ntu : (s.setCoe x).ntu = s.ntu := rfl
@[simp] theorem State.setCoe_pins : (s.setCoe x).pins = s.pins := rfl
@[simp] theorem State.setCoe_pending : (s.setCoe x).pending = s.pending := rfl
@[simp] theorem State.setCoe_setup : (s.setCoe x).setup = s.setup := rfl
@[simp] theorem State.setCoe_setCoe (y : Coe) : (s.setCoe x).setCoe y = s.setCoe y := rfl
@[simp] theorem State.setCoe_self : s.setCoe s.coe = s := rfl

end setCoe

section setTrc

variable (s : State) (x : Trc)

@[simp] theorem State.setTrc_cap : (s.setTrc x).cap = s.cap := rfl
@[simp] theorem State.setTrc_rng : (s.setTrc x).rng = s.rng := rfl
@[simp] theorem State.setTrc_frd : (s.setTrc x).frd = s.frd := rfl
@[simp] theorem State.setTrc_dfd : (s.setTrc x).dfd = s.dfd := rfl
@[simp] theorem State.setTrc_rpe : (s.setTrc x).rpe = s.rpe := rfl
@[simp] theorem State.setTrc_coe : (s.setTrc x).coe = s.coe := rfl
@[simp] theorem State.setTrc_trc : (s.setTrc x).trc = x := rfl
@[simp] theorem State.setTrc_scn : (s.setTrc x).scn = s.scn := rfl
@[simp] theorem State.setTrc_lif : (s.setTrc x).lif = s.lif := rfl
@[simp] theorem State.setTrc_ntu : (s.setTrc x).ntu = s.ntu := rfl
@[simp] theorem State.setTrc_pins : (s.setTrc x).pins = s.pins := rfl
@[simp] theorem State.setTrc_pending : (s.setTrc x).pending = s.pending := rfl
@[simp] theorem State.setTrc_setup : (s.setTrc x).setup = s.setup := rfl
@[simp] theorem State.setTrc_setTrc (y : Trc) : (s.setTrc x).setTrc y = s.setTrc y := rfl
@[simp] theorem State.setTrc_self : s.setTrc s.trc = s := rfl

end setTrc

section setScn

variable (s : State) (x : Scn)

@[simp] theorem State.setScn_cap : (s.setScn x).cap = s.cap := rfl
@[simp] theorem State.setScn_rng : (s.setScn x).rng = s.rng := rfl
@[simp] theorem State.setScn_frd : (s.setScn x).frd = s.frd := rfl
@[simp] theorem State.setScn_dfd : (s.setScn x).dfd = s.dfd := rfl
@[simp] theorem State.setScn_rpe : (s.setScn x).rpe = s.rpe := rfl
@[simp] theorem State.setScn_coe : (s.setScn x).coe = s.coe := rfl
@[simp] theorem State.setScn_trc : (s.setScn x).trc = s.trc := rfl
@[simp] theorem State.setScn_scn : (s.setScn x).scn = x := rfl
@[simp] theorem State.setScn_lif : (s.setScn x).lif = s.lif := rfl
@[simp] theorem State.setScn_ntu : (s.setScn x).ntu = s.ntu := rfl
@[simp] theorem State.setScn_pins : (s.setScn x).pins = s.pins := rfl
@[simp] theorem State.setScn_pending : (s.setScn x).pending = s.pending := rfl
@[simp] theorem State.setScn_setup : (s.setScn x).setup = x.setup := rfl
@[simp] theorem State.setScn_setScn (y : Scn) : (s.setScn x).setScn y = s.setScn y := rfl
@[simp] theorem State.setScn_self : s.setScn s.scn = s := rfl

end setScn

section setLif

variable (s : State) (x : Lif)

@[simp] theorem State.setLif_cap : (s.setLif x).cap = s.cap := rfl
@[simp] theorem State.setLif_rng : (s.setLif x).rng = s.rng := rfl
@[simp] theorem State.setLif_frd : (s.setLif x).frd = s.frd := rfl
@[simp] theorem State.setLif_dfd : (s.setLif x).dfd = s.dfd := rfl
@[simp] theorem State.setLif_rpe : (s.setLif x).rpe = s.rpe := rfl
@[simp] theorem State.setLif_coe : (s.setLif x).coe = s.coe := rfl
@[simp] theorem State.setLif_trc : (s.setLif x).trc = s.trc := rfl
@[simp] theorem State.setLif_scn : (s.setLif x).scn = s.scn := rfl
@[simp] theorem State.setLif_lif : (s.setLif x).lif = x := rfl
@[simp] theorem State.setLif_ntu : (s.setLif x).ntu = s.ntu := rfl
@[simp] theorem State.setLif_pins : (s.setLif x).pins = s.pins := rfl
@[simp] theorem State.setLif_pending : (s.setLif x).pending = s.pending := rfl
@[simp] theorem State.setLif_setup : (s.setLif x).setup = s.setup := rfl
@[simp] theorem State.setLif_setLif (y : Lif) : (s.setLif x).setLif y = s.setLif y := rfl
@[simp] theorem State.setLif_self : s.setLif s.lif = s := rfl

end setLif

section setNtu

variable (s : State) (x : Ntu)

@[simp] theorem State.setNtu_cap : (s.setNtu x).cap = s.cap := rfl
@[simp] theorem State.setNtu_rng : (s.setNtu x).rng = s.rng := rfl
@[simp] theorem State.setNtu_frd : (s.setNtu x).frd = s.frd := rfl
@[simp] theorem State.setNtu_dfd : (s.setNtu x).dfd = s.dfd := rfl
@[simp] theorem State.setNtu_rpe : (s.setNtu x).rpe = s.rpe := rfl
@[simp] theorem State.setNtu_coe : (s.setNtu x).coe = s.coe := rfl
@[simp] theorem State.setNtu_trc : (s.setNtu x).trc = s.trc := rfl
@[simp] theorem State.setNtu_scn : (s.setNtu x).scn = s.scn := rfl
@[simp] theorem State.setNtu_lif : (s.setNtu x).lif = s.lif := rfl
@[simp] theorem State.setNtu_ntu : (s.setNtu x).ntu = x := rfl
@[simp] theorem State.setNtu_pins : (s.setNtu x).pins = s.pins := rfl
@[simp] theorem State.setNtu_pending : (s.setNtu x).pending = s.pending := rfl
@[simp] theorem State.setNtu_setup : (s.setNtu x).setup = s.setup := rfl
@[simp] theorem State.setNtu_setNtu (y : Ntu) : (s.setNtu x).setNtu y = s.setNtu y := rfl
@[simp] theorem State.setNtu_self : s.setNtu s.ntu = s := rfl

end setNtu

section setPins

variable (s : State) (x : Pins)

@[simp] theorem State.setPins_cap : (s.setPins x).cap = s.cap := rfl
@[simp] theorem State.setPins_rng : (s.setPins x).rng = s.rng := rfl
@[simp] theorem State.setPins_frd : (s.setPins x).frd = s.frd := rfl
@[simp] theorem State.setPins_dfd : (s.setPins x).dfd = s.dfd := rfl
@[simp] theorem State.setPins_rpe : (s.setPins x).rpe = s.rpe := rfl
@[simp] theorem State.setPins_coe : (s.setPins x).coe = s.coe := rfl
@[simp] theorem State.setPins_trc : (s.setPins x).trc = s.trc := rfl
@[simp] theorem State.setPins_scn : (s.setPins x).scn = s.scn := rfl
@[simp] theorem State.setPins_lif : (s.setPins x).lif = s.lif := rfl
@[simp] theorem State.setPins_ntu : (s.setPins x).ntu = s.ntu := rfl
@[simp] theorem State.setPins_pins : (s.setPins x).pins = x := rfl
@[simp] theorem State.setPins_pending : (s.setPins x).pending = s.pending := rfl
@[simp] theorem State.setPins_setup : (s.setPins x).setup = s.setup := rfl
@[simp] theorem State.setPins_setPins (y : Pins) : (s.setPins x).setPins y = s.setPins y := rfl
@[simp] theorem State.setPins_self : s.setPins s.pins = s := rfl

end setPins

section setPending

variable (s : State) (x : List Instr)

@[simp] theorem State.setPending_cap : (s.setPending x).cap = s.cap := rfl
@[simp] theorem State.setPending_rng : (s.setPending x).rng = s.rng := rfl
@[simp] theorem State.setPending_frd : (s.setPending x).frd = s.frd := rfl
@[simp] theorem State.setPending_dfd : (s.setPending x).dfd = s.dfd := rfl
@[simp] theorem State.setPending_rpe : (s.setPending x).rpe = s.rpe := rfl
@[simp] theorem State.setPending_coe : (s.setPending x).coe = s.coe := rfl
@[simp] theorem State.setPending_trc : (s.setPending x).trc = s.trc := rfl
@[simp] theorem State.setPending_scn : (s.setPending x).scn = s.scn := rfl
@[simp] theorem State.setPending_lif : (s.setPending x).lif = s.lif := rfl
@[simp] theorem State.setPending_ntu : (s.setPending x).ntu = s.ntu := rfl
@[simp] theorem State.setPending_pins : (s.setPending x).pins = s.pins := rfl
@[simp] theorem State.setPending_pending : (s.setPending x).pending = x := rfl
@[simp] theorem State.setPending_setup : (s.setPending x).setup = s.setup := rfl
@[simp] theorem State.setPending_setPending (y : List Instr) : (s.setPending x).setPending y = s.setPending y := rfl
@[simp] theorem State.setPending_self : s.setPending s.pending = s := rfl

end setPending

/-- The setup in force is the Scan Controller's. -/
@[simp] theorem State.setup_eq (s : State) : s.scn.setup = s.setup := rfl

end Sys2Proof.Machine
end

