-- ==== Sys2Proof/Laws/Outer.lean ====
section
/-! SUPPORT. What the blocks of the image path and of the transport leave alone: the waiting commands, the
pins, the setup, the link's receive side, replies and reports, the Scan Controller's reports and markers,
the calibration tables, the port and the preview rows. One lemma per operation. -/

namespace Sys2Proof.Machine

/-- The parts of the Scan Controller that only its own rules change. -/
structure ScnOuter where
  setup : Setup
  drain : Drain
  endReason : Option EndReason
  markers : List Marker
  due : List ScnReport

/-- The parts of the Link Interface that only its own rules change. -/
structure LifOuter where
  framer : Framer
  lastError : LinkError
  slot : Option Record
  replies : List Record
  reports : List Record
  waitList : List Producer
  tx : Option Record
  resetPending : Bool

/-- The parts of the Capture Unit that only its own rules change. -/
structure CapOuter where
  dark : PerChannel Table
  gain : PerChannel Table
  afe : Option AfeTransfer
  inFlight : Option Flight
  report : Option CalReport

/-- What the image path and the transport leave alone. -/
structure Outer where
  pending : List Instr
  pins : Pins
  scn : ScnOuter
  lif : LifOuter
  cap : CapOuter
  rows : List PreviewRow

/-- The part of the Scan Controller that a state's `outer` holds. -/
def Scn.outer (c : Scn) : ScnOuter := ⟨c.setup, c.drain, c.endReason, c.markers, c.due⟩

/-- The part of the Link Interface that a state's `outer` holds. -/
def Lif.outer (c : Lif) : LifOuter :=
  ⟨c.framer, c.lastError, c.slot, c.replies, c.reports, c.waitList, c.tx, c.resetPending⟩

/-- The part of the Capture Unit that a state's `outer` holds. -/
def Cap.outer (c : Cap) : CapOuter := ⟨c.dark, c.gain, c.afe, c.inFlight, c.report⟩

/-- What the image path and the transport leave alone, of a state. -/
def State.outer (s : State) : Outer :=
  ⟨s.pending, s.pins, s.scn.outer, s.lif.outer, s.cap.outer, s.coe.rows⟩

/-! ## Updates of one block -/

theorem State.outer_setCap (s : State) (x : Cap) (h : x.outer = s.cap.outer) :
    (s.setCap x).outer = s.outer := by simp [State.outer, h]

theorem State.outer_setScn (s : State) (x : Scn) (h : x.outer = s.scn.outer) :
    (s.setScn x).outer = s.outer := by simp [State.outer, h]

theorem State.outer_setLif (s : State) (x : Lif) (h : x.outer = s.lif.outer) :
    (s.setLif x).outer = s.outer := by simp [State.outer, h]

theorem State.outer_setCoe (s : State) (x : Coe) (h : x.rows = s.coe.rows) :
    (s.setCoe x).outer = s.outer := by simp [State.outer, h]

@[simp] theorem State.outer_setRng (s : State) (x : Rng) : (s.setRng x).outer = s.outer := rfl
@[simp] theorem State.outer_setFrd (s : State) (x : Frd) : (s.setFrd x).outer = s.outer := rfl
@[simp] theorem State.outer_setDfd (s : State) (x : Dfd) : (s.setDfd x).outer = s.outer := rfl
@[simp] theorem State.outer_setRpe (s : State) (x : Rpe) : (s.setRpe x).outer = s.outer := rfl
@[simp] theorem State.outer_setTrc (s : State) (x : Trc) : (s.setTrc x).outer = s.outer := rfl
@[simp] theorem State.outer_setNtu (s : State) (x : Ntu) : (s.setNtu x).outer = s.outer := rfl

/-! ## Flags -/

@[simp] theorem State.outer_noticeDue (s : State) : s.noticeDue.outer = s.outer := rfl

@[simp] theorem State.outer_raise (s : State) (c : Cause) : (s.raise c).outer = s.outer := by
  unfold State.raise; split <;> (try split) <;> rfl

@[simp] theorem State.outer_evalHalted (s : State) : s.evalHalted.outer = s.outer := by
  unfold State.evalHalted; simp only []; split <;> simp

@[simp] theorem State.outer_setOp (s : State) (op : OpState) : (s.setOp op).outer = s.outer := by
  simp only [State.setOp, State.outer_evalHalted]; rfl

/-! ## The carriage -/

@[simp] theorem State.outer_moveComplete (s : State) : s.moveComplete.outer = s.outer := by
  unfold State.moveComplete
  split
  · split
    · rw [State.outer_setOp]; rfl
    · simp
  · rfl

@[simp] theorem State.outer_moveArrived (s : State) : s.moveArrived.outer = s.outer := by
  simp [State.moveArrived]

@[simp] theorem State.outer_beginMove (s : State) (n : Nat) : (s.beginMove n).outer = s.outer := by
  unfold State.beginMove; split <;> simp

@[simp] theorem State.outer_beginHoming (s : State) : s.beginHoming.outer = s.outer := rfl

@[simp] theorem State.outer_beginApproach (s : State) : s.beginApproach.outer = s.outer := rfl

@[simp] theorem State.outer_beginBacktrack (s : State) : s.beginBacktrack.outer = s.outer := by
  unfold State.beginBacktrack; simp only []; split <;> simp

@[simp] theorem State.outer_resumeAtRest (s : State) : s.resumeAtRest.outer = s.outer := by
  unfold State.resumeAtRest; split <;> (try split) <;> simp

@[simp] theorem State.outer_stopEvent (s : State) : s.stopEvent.outer = s.outer := by
  unfold State.stopEvent; simp only []; split <;> simp

@[simp] theorem State.outer_brake (s : State) : s.brake.outer = s.outer := by
  unfold State.brake; simp only []; split <;> simp

@[simp] theorem State.outer_stopOrder (s : State) : s.stopOrder.outer = s.outer := by
  unfold State.stopOrder; simp only []; repeat' split
  all_goals simp

@[simp] theorem State.outer_stopAtOnce (s : State) : s.stopAtOnce.outer = s.outer := rfl

@[simp] theorem State.outer_halt (s : State) : s.halt.outer = s.outer := by
  unfold State.halt; simp only [State.outer_brake, State.outer_setTrc]; rfl

@[simp] theorem State.outer_regrade (s : State) (r : Grade) : (s.regrade r).outer = s.outer := by
  unfold State.regrade; repeat' split
  all_goals simp

@[simp] theorem State.outer_rehold (s : State) (r : Grade) : (s.rehold r).outer = s.outer := by
  unfold State.rehold; repeat' split
  all_goals simp

@[simp] theorem State.outer_gradeChanged (s : State) (r : Grade) :
    (s.gradeChanged r).outer = s.outer := by
  unfold State.gradeChanged; repeat' split
  all_goals simp

@[simp] theorem State.outer_post (s : State) (src : Source) (g : Grade) :
    (s.post src g).outer = s.outer := by
  unfold State.post; simp only []; split <;> simp

@[simp] theorem State.outer_releaseRunUp (s : State) : s.releaseRunUp.outer = s.outer := by
  unfold State.releaseRunUp; simp only []; split <;> simp

/-! ## The ring -/

@[simp] theorem State.outer_ringAppend (s : State) (n : Nat) (px : List Pixel) :
    (s.ringAppend n px).outer = s.outer := by simp [State.ringAppend]

@[simp] theorem State.outer_ringRelease (s : State) : s.ringRelease.outer = s.outer := by
  unfold State.ringRelease; simp only []; split
  · rfl
  · rw [State.outer_post]; rfl

@[simp] theorem State.outer_ringClear (s : State) : s.ringClear.outer = s.outer := by
  simp [State.ringClear]

/-! ## Frames -/

@[simp] theorem State.outer_postTable (s : State) : s.postTable.outer = s.outer := by
  simp [State.postTable]

theorem Coe.rows_promote (c : Coe) : c.promote.rows = c.rows := by
  unfold Coe.promote; split <;> rfl

@[simp] theorem State.outer_createFrame (s : State) (top : Nat) : (s.createFrame top).outer = s.outer := by
  simp only [State.createFrame, State.outer_postTable, State.outer_setFrd]
  exact State.outer_setCoe _ _ (Coe.rows_promote _)

@[simp] theorem State.outer_freeSliver (s : State) (f : Frame) : (s.freeSliver f).outer = s.outer := by
  simp only [State.freeSliver, State.outer_postTable]; rfl

@[simp] theorem State.outer_freeFrame (s : State) (n : Nat) : (s.freeFrame n).outer = s.outer := by
  simp [State.freeFrame]

@[simp] theorem State.outer_frdInGap (s : State) (n : Nat) (c : LineClass) (g : List Nat) :
    (s.frdInGap n c g).outer = s.outer := by
  unfold State.frdInGap; simp only []; repeat' split
  all_goals simp

@[simp] theorem State.outer_refreshSettled (s : State) : s.refreshSettled.outer = s.outer := by
  unfold State.refreshSettled; repeat' split
  all_goals rfl

/-- The clearing of the Frame Table takes the Frame Detector off the wait list (R59, R173). -/
theorem State.outer_frdClear (s : State) : s.frdClear.outer =
    (s.setLif { s.lif with waitList := s.lif.waitList.filter (· ≠ .frd) }).outer := by
  simp only [State.frdClear, State.outer_postTable]; rfl

/-! ## Frames that report: the report queue and the wait list change as well -/

/-- `outer` but for the report queue and the wait list. -/
def Outer.noReports (o : Outer) : Outer := { o with lif := { o.lif with reports := [], waitList := [] } }

/-- What the Frame Detector's handling of a line leaves alone, of a state. -/
def State.inner (s : State) : Outer := s.outer.noReports

theorem State.inner_of_outer {s t : State} (h : t.outer = s.outer) : t.inner = s.inner :=
  congrArg Outer.noReports h

@[simp] theorem State.inner_setFrd (s : State) (x : Frd) : (s.setFrd x).inner = s.inner := rfl
@[simp] theorem State.inner_freeSliver (s : State) (f : Frame) : (s.freeSliver f).inner = s.inner :=
  inner_of_outer (State.outer_freeSliver s f)
@[simp] theorem State.inner_freeFrame (s : State) (n : Nat) : (s.freeFrame n).inner = s.inner :=
  inner_of_outer (State.outer_freeFrame s n)
@[simp] theorem State.inner_createFrame (s : State) (n : Nat) : (s.createFrame n).inner = s.inner :=
  inner_of_outer (State.outer_createFrame s n)
@[simp] theorem State.inner_ringRelease (s : State) : s.ringRelease.inner = s.inner :=
  inner_of_outer (State.outer_ringRelease s)
@[simp] theorem State.inner_frdInGap (s : State) (n : Nat) (c : LineClass) (g : List Nat) :
    (s.frdInGap n c g).inner = s.inner := inner_of_outer (State.outer_frdInGap s n c g)
@[simp] theorem State.inner_refreshSettled (s : State) : s.refreshSettled.inner = s.inner :=
  inner_of_outer (State.outer_refreshSettled s)
@[simp] theorem State.inner_pushReport (s : State) (r : Record) : (s.pushReport r).inner = s.inner := rfl

@[simp] theorem State.inner_joinWaitList (s : State) (p : Producer) : (s.joinWaitList p).inner = s.inner := by
  unfold State.joinWaitList; split <;> rfl

@[simp] theorem State.inner_placeFrameDone (s : State) (n : Nat) : (s.placeFrameDone n).inner = s.inner := by
  unfold State.placeFrameDone; split <;> simp

@[simp] theorem State.inner_placeFrd (s : State) : s.placeFrd.inner = s.inner := by
  unfold State.placeFrd; simp only []; split <;> simp

@[simp] theorem State.inner_offerFrd (s : State) : s.offerFrd.inner = s.inner := by
  unfold State.offerFrd State.offerBy; split <;> simp

@[simp] theorem State.inner_closeFrame (s : State) (f : Frame) (p : Probed) (n : Nat) (r : CloseReason) :
    (s.closeFrame f p n r).inner = s.inner := by
  unfold State.closeFrame; simp only []; split <;> simp

@[simp] theorem State.inner_completeProbe (s : State) (f : Frame) :
    (s.completeProbe f).inner = s.inner := by
  simp only [State.completeProbe, State.inner_offerFrd]; rfl

@[simp] theorem State.inner_enterGap (s : State) (n : Nat) : (s.enterGap n).inner = s.inner := by
  unfold State.enterGap; simp only []; repeat' split
  all_goals simp

@[simp] theorem State.inner_frdInImage (s : State) (n : Nat) (c : LineClass) (g : List Nat) :
    (s.frdInImage n c g).inner = s.inner := by
  simp only [State.frdInImage, apply_ite State.inner, State.inner_enterGap, State.inner_setFrd, ite_self]

@[simp] theorem State.inner_frdProbeStage (s : State) (n : Nat) :
    (s.frdProbeStage n).inner = s.inner := by
  unfold State.frdProbeStage; repeat' split
  all_goals simp

@[simp] theorem State.inner_forceClose (s : State) (f : Frame) (p : Probed) (n : Nat) :
    (s.forceClose f p n).inner = s.inner := by simp [State.forceClose]

@[simp] theorem State.inner_frdCloseStage (s : State) (n : Nat) :
    (s.frdCloseStage n).inner = s.inner := by
  unfold State.frdCloseStage; repeat' split
  all_goals simp

@[simp] theorem State.inner_frdLine (s : State) (n : Nat) (px : List Pixel) :
    (s.frdLine n px).inner = s.inner := by
  simp only [State.frdLine, State.inner_refreshSettled, State.inner_setFrd, State.inner_frdCloseStage,
    State.inner_frdProbeStage]
  split <;> split <;> simp

/-! ## Defects and repair -/

@[simp] theorem State.outer_maskLine (s : State) (j : Nat) : (s.maskLine j).outer = s.outer := rfl

@[simp] theorem State.outer_endRegion (s : State) (r : Region) (f : Tally → Tally) :
    (s.endRegion r f).outer = s.outer := rfl

@[simp] theorem State.outer_keepRegion (s : State) (ts : List TestSpan) (r : Region) :
    (s.keepRegion ts r).1.outer = s.outer := by
  unfold State.keepRegion; split <;> rfl

@[simp] theorem State.outer_trackRun (n : Nat) (acc : State × List TestSpan) (run : Run) :
    (State.trackRun n acc run).1.outer = acc.1.outer := by
  unfold State.trackRun; simp only []; repeat' split
  all_goals simp

theorem State.outer_trackRuns (n : Nat) (runs : List Run) (acc : State × List TestSpan) :
    (runs.foldl (State.trackRun n) acc).1.outer = acc.1.outer := by
  induction runs generalizing acc with
  | nil => rfl
  | cons r rs ih => rw [List.foldl_cons, ih, State.outer_trackRun]

@[simp] theorem State.outer_repairTake (s : State) : s.repairTake.outer = s.outer := by
  unfold State.repairTake; repeat' split
  all_goals rfl

@[simp] theorem State.outer_postRepair (s : State) : s.postRepair.outer = s.outer := by
  simp [State.postRepair]

@[simp] theorem State.outer_makeReady (s : State) (r : Region) : (s.makeReady r).outer = s.outer := by
  unfold State.makeReady; split <;> simp

@[simp] theorem State.outer_makeAllReady (s : State) (rs : List Region) :
    (s.makeAllReady rs).outer = s.outer := by
  unfold State.makeAllReady
  rw [State.outer_postRepair]
  generalize byFirst rs = l
  induction l generalizing s with
  | nil => rfl
  | cons r l ih => rw [List.foldl_cons, ih, State.outer_makeReady]

@[simp] theorem State.outer_dfdRuns (s : State) (n a b : Nat) (px : List Pixel) :
    (s.dfdRuns n a b px).1.outer = s.outer := by
  unfold State.dfdRuns; simp only []; split <;> rfl

@[simp] theorem State.outer_dfdLast (s : State) (n : Nat) : (s.dfdLast n).outer = s.outer := by
  simp only [State.dfdLast, State.outer_makeAllReady, State.outer_setDfd]
  generalize List.map _ _ = l
  induction l generalizing s with
  | nil => rfl
  | cons j l ih => rw [List.foldl_cons, ih, State.outer_maskLine]

@[simp] theorem State.outer_dfdLine (s : State) (n a b : Nat) (px : List Pixel) :
    (s.dfdLine n a b px).outer = s.outer := by
  simp only [State.dfdLine]
  split <;> split <;> simp [State.outer_trackRuns]

@[simp] theorem State.outer_dfdClear (s : State) : s.dfdClear.outer = s.outer := rfl

@[simp] theorem State.outer_rpeClear (s : State) : s.rpeClear.outer = s.outer := by
  simp [State.rpeClear]

@[simp] theorem State.outer_finishRepair (s : State) (e : Repairing) :
    (s.finishRepair e).outer = s.outer := by
  simp only [State.finishRepair, State.outer_ringRelease, State.outer_postRepair,
    State.outer_repairTake, State.outer_setRpe]
  split <;> simp

/-! ## Output -/

theorem State.outer_coeAdvance {s t : State} (h : s.coeAdvance = some t) : t.outer = s.outer := by
  unfold State.coeAdvance at h
  repeat' split at h
  all_goals cases h
  all_goals first | rfl | (rw [State.outer_refreshSettled]; rfl)

theorem State.outer_takeImage {s t : State} {r : Record} (h : s.takeImage = some (r, t)) :
    t.outer = s.outer := by
  unfold State.takeImage at h
  simp only [] at h
  repeat' split at h
  all_goals cases h
  all_goals first | rfl | (rw [State.outer_ringRelease]; rfl)

end Sys2Proof.Machine
end

