-- ==== Sys2Proof/Laws/Queue.lean ====
section
/-! SUPPORT. What no event inside the device changes: the waiting commands, the receive side of the link, the
replies, the record being sent and the transfer on the Front-End Control Port. Then: no row changes the queue
of waiting commands. One lemma per operation. -/

namespace Sys2Proof.Machine

/-- What no event inside the device changes. -/
structure Front where
  pending : List Instr
  framer : Framer
  lastError : LinkError
  slot : Option Record
  replies : List Record
  tx : Option Record
  resetPending : Bool
  afe : Option AfeTransfer

/-- What no event inside the device changes, of a state. -/
def State.front (s : State) : Front :=
  ⟨s.pending, s.lif.framer, s.lif.lastError, s.lif.slot, s.lif.replies, s.lif.tx, s.lif.resetPending,
    s.cap.afe⟩

/-- The part of `outer` that `front` is. -/
def Outer.front (o : Outer) : Front :=
  ⟨o.pending, o.lif.framer, o.lif.lastError, o.lif.slot, o.lif.replies, o.lif.tx, o.lif.resetPending,
    o.cap.afe⟩

theorem State.front_of_outer {s t : State} (h : t.outer = s.outer) : t.front = s.front :=
  congrArg Outer.front h

theorem State.front_of_inner {s t : State} (h : t.inner = s.inner) : t.front = s.front := by
  have e : ∀ x : State, x.front = Outer.front x.inner := fun _ => rfl
  rw [e, e, h]

/-! ## Updates of one block -/

@[simp] theorem State.front_setRng (s : State) (x : Rng) : (s.setRng x).front = s.front := rfl
@[simp] theorem State.front_setFrd (s : State) (x : Frd) : (s.setFrd x).front = s.front := rfl
@[simp] theorem State.front_setDfd (s : State) (x : Dfd) : (s.setDfd x).front = s.front := rfl
@[simp] theorem State.front_setRpe (s : State) (x : Rpe) : (s.setRpe x).front = s.front := rfl
@[simp] theorem State.front_setCoe (s : State) (x : Coe) : (s.setCoe x).front = s.front := rfl
@[simp] theorem State.front_setTrc (s : State) (x : Trc) : (s.setTrc x).front = s.front := rfl
@[simp] theorem State.front_setScn (s : State) (x : Scn) : (s.setScn x).front = s.front := rfl
@[simp] theorem State.front_setNtu (s : State) (x : Ntu) : (s.setNtu x).front = s.front := rfl
@[simp] theorem State.front_setPins (s : State) (x : Pins) : (s.setPins x).front = s.front := rfl
@[simp] theorem State.front_setCap (s : State) (x : Cap) (h : x.afe = s.cap.afe) :
    (s.setCap x).front = s.front := by simp [State.front, h]

@[simp] theorem State.front_setLif (s : State) (x : Lif) (h1 : x.framer = s.lif.framer)
    (h2 : x.lastError = s.lif.lastError) (h3 : x.slot = s.lif.slot) (h4 : x.replies = s.lif.replies)
    (h5 : x.tx = s.lif.tx) (h6 : x.resetPending = s.lif.resetPending) :
    (s.setLif x).front = s.front := by simp [State.front, h1, h2, h3, h4, h5, h6]

/-! ## The port under the operations of the Capture Unit -/

theorem Cap.afe_lampOn (c : Cap) : c.lampOn.afe = c.afe := by
  unfold Cap.lampOn; split <;> rfl

theorem Cap.afe_beginWarmUp (c : Cap) : c.beginWarmUp.afe = c.afe := by
  unfold Cap.beginWarmUp; simp only []; split
  · rfl
  · exact Cap.afe_lampOn _

theorem Cap.afe_takePixels (c : Cap) (w : Nat) (px : List Pixel) : (c.takePixels w px).1.afe = c.afe := by
  unfold Cap.takePixels; simp only []; repeat' split
  all_goals rfl

theorem Cap.afe_loadTable (c : Cap) (ch tb first : Nat) (vs : List Half) :
    (c.loadTable ch tb first vs).afe = c.afe := by
  unfold Cap.loadTable; split <;> rfl

theorem Cap.afe_darkDone (c : Cap) (r : CalRun) : (c.darkDone r).afe = c.afe :=
  Cap.afe_beginWarmUp _

section afe

variable (c : Cap)

@[simp] theorem Cap.afe_endCapture : c.endCapture.afe = c.afe := (rfl)
@[simp] theorem Cap.afe_startScanLine : c.startScanLine.afe = c.afe := (rfl)
@[simp] theorem Cap.afe_lampOff : c.lampOff.afe = c.afe := (rfl)
@[simp] theorem Cap.afe_endRun (o : CalOutcome) : (c.endRun o).afe = c.afe := (rfl)
@[simp] theorem Cap.afe_writeResults (r : CalRun) (b : Bool) : (c.writeResults r b).afe = c.afe := (rfl)
@[simp] theorem Cap.afe_whiteDone (w : Nat) (r : CalRun) : (c.whiteDone w r).afe = c.afe := (rfl)

end afe

/-! ## From what the image path and the transport leave alone -/

@[simp] theorem State.front_raise (s : State) (c : Cause) :
    (s.raise c).front = s.front := front_of_outer (State.outer_raise s c)
@[simp] theorem State.front_evalHalted (s : State) :
    s.evalHalted.front = s.front := front_of_outer (State.outer_evalHalted s)
@[simp] theorem State.front_setOp (s : State) (op : OpState) :
    (s.setOp op).front = s.front := front_of_outer (State.outer_setOp s op)
@[simp] theorem State.front_moveComplete (s : State) :
    s.moveComplete.front = s.front := front_of_outer (State.outer_moveComplete s)
@[simp] theorem State.front_moveArrived (s : State) :
    s.moveArrived.front = s.front := front_of_outer (State.outer_moveArrived s)
@[simp] theorem State.front_beginMove (s : State) (n : Nat) :
    (s.beginMove n).front = s.front := front_of_outer (State.outer_beginMove s n)
@[simp] theorem State.front_beginHoming (s : State) :
    s.beginHoming.front = s.front := front_of_outer (State.outer_beginHoming s)
@[simp] theorem State.front_beginApproach (s : State) :
    s.beginApproach.front = s.front := front_of_outer (State.outer_beginApproach s)
@[simp] theorem State.front_beginBacktrack (s : State) :
    s.beginBacktrack.front = s.front := front_of_outer (State.outer_beginBacktrack s)
@[simp] theorem State.front_stopEvent (s : State) :
    s.stopEvent.front = s.front := front_of_outer (State.outer_stopEvent s)
@[simp] theorem State.front_brake (s : State) :
    s.brake.front = s.front := front_of_outer (State.outer_brake s)
@[simp] theorem State.front_stopOrder (s : State) :
    s.stopOrder.front = s.front := front_of_outer (State.outer_stopOrder s)
@[simp] theorem State.front_stopAtOnce (s : State) :
    s.stopAtOnce.front = s.front := front_of_outer (State.outer_stopAtOnce s)
@[simp] theorem State.front_post (s : State) (src : Source) (g : Grade) :
    (s.post src g).front = s.front := front_of_outer (State.outer_post s src g)
@[simp] theorem State.front_releaseRunUp (s : State) :
    s.releaseRunUp.front = s.front := front_of_outer (State.outer_releaseRunUp s)
@[simp] theorem State.front_ringAppend (s : State) (n : Nat) (px : List Pixel) :
    (s.ringAppend n px).front = s.front := front_of_outer (State.outer_ringAppend s n px)
@[simp] theorem State.front_ringRelease (s : State) :
    s.ringRelease.front = s.front := front_of_outer (State.outer_ringRelease s)
@[simp] theorem State.front_ringClear (s : State) :
    s.ringClear.front = s.front := front_of_outer (State.outer_ringClear s)
@[simp] theorem State.front_freeFrame (s : State) (n : Nat) :
    (s.freeFrame n).front = s.front := front_of_outer (State.outer_freeFrame s n)
@[simp] theorem State.front_frdLine (s : State) (n : Nat) (px : List Pixel) :
    (s.frdLine n px).front = s.front := front_of_inner (State.inner_frdLine s n px)
@[simp] theorem State.front_dfdLine (s : State) (n a b : Nat) (px : List Pixel) :
    (s.dfdLine n a b px).front = s.front := front_of_outer (State.outer_dfdLine s n a b px)
@[simp] theorem State.front_rpeClear (s : State) :
    s.rpeClear.front = s.front := front_of_outer (State.outer_rpeClear s)
@[simp] theorem State.front_finishRepair (s : State) (e : Repairing) :
    (s.finishRepair e).front = s.front := front_of_outer (State.outer_finishRepair s e)
@[simp] theorem State.front_refreshSettled (s : State) :
    s.refreshSettled.front = s.front := front_of_outer (State.outer_refreshSettled s)

@[simp] theorem State.front_frdClear (s : State) : s.frdClear.front = s.front :=
  congrArg Outer.front (State.outer_frdClear s)
@[simp] theorem State.front_dfdClear (s : State) : s.dfdClear.front = s.front := rfl

/-! ## Flags, output and reports -/

@[simp] theorem State.front_noticeDue (s : State) : s.noticeDue.front = s.front := rfl

@[simp] theorem State.front_clearCauses (s : State) (x : CauseSet) :
    (s.clearCauses x).front = s.front := by
  unfold State.clearCauses; simp only []; split <;> rfl

@[simp] theorem State.front_enableCauses (s : State) (x : CauseSet) :
    (s.enableCauses x).front = s.front := by
  unfold State.enableCauses; simp only []; split <;> rfl

@[simp] theorem State.front_completePreviewRow (s : State) :
    s.completePreviewRow.front = s.front := by
  unfold State.completePreviewRow; simp only []; split <;> simp

@[simp] theorem State.front_previewLine (s : State) (px : List Pixel) :
    (s.previewLine px).front = s.front := by
  unfold State.previewLine; simp only []; repeat' split
  all_goals simp

@[simp] theorem State.front_previewTail (s : State) : s.previewTail.front = s.front := by
  unfold State.previewTail; repeat' split
  all_goals simp

@[simp] theorem State.front_coeClear (s : State) : s.coeClear.front = s.front := rfl

theorem State.front_coeAdvance {s t : State} (h : s.coeAdvance = some t) : t.front = s.front :=
  front_of_outer (State.outer_coeAdvance h)

theorem State.front_takeImage {s t : State} {r : Record} (h : s.takeImage = some (r, t)) :
    t.front = s.front := front_of_outer (State.outer_takeImage h)

theorem State.front_takePreview {s t : State} {r : Record} (h : s.takePreview = some (r, t)) :
    t.front = s.front := by
  unfold State.takePreview at h
  simp only [] at h
  repeat' split at h
  all_goals cases h
  all_goals rfl

@[simp] theorem State.front_pushReport (s : State) (r : Record) :
    (s.pushReport r).front = s.front := rfl

@[simp] theorem State.front_placeFrameDone (s : State) (n : Nat) :
    (s.placeFrameDone n).front = s.front := by
  unfold State.placeFrameDone; split <;> simp

@[simp] theorem State.front_place (s : State) (p : Producer) : (s.place p).front = s.front := by
  cases p
  · show s.placeCal.front = s.front
    unfold State.placeCal; simp only []; repeat' split
    · rfl
    · exact (State.front_setOp _ _).trans rfl
    · rfl
    · rfl
  · simp only [State.place]; unfold State.placeFrd; simp only []; split <;> simp
  · simp only [State.place]; unfold State.placeCoe; split <;> simp
  · simp only [State.place]; unfold State.placeScn; simp only []; repeat' split
    all_goals simp

@[simp] theorem State.front_joinWaitList (s : State) (p : Producer) :
    (s.joinWaitList p).front = s.front := by unfold State.joinWaitList; split <;> rfl

@[simp] theorem State.front_offer (s : State) (p : Producer) : (s.offer p).front = s.front := by
  unfold State.offer State.offerBy; split <;> simp

@[simp] theorem State.front_giveRoom (s : State) : s.giveRoom.front = s.front := by
  unfold State.giveRoom; simp only []; repeat' split
  all_goals simp

theorem State.front_testMarker {s t : State} (h : s.testMarker = some t) : t.front = s.front := by
  unfold State.testMarker at h
  repeat' split at h
  all_goals cases h
  all_goals rfl

theorem State.front_drainCheck {s t : State} (h : s.drainCheck = some t) : t.front = s.front := by
  unfold State.drainCheck at h
  simp only [] at h
  repeat' split at h
  all_goals cases h
  all_goals rfl

/-- A reaction of the device is one of five: an output step, a marker, a drain report, an offered report,
or the end of STOPPING. -/
theorem State.settleStep_cases {s t : State} (h : s.settleStep = some t) :
    s.coeAdvance = some t ∨ s.testMarker = some t ∨ s.drainCheck = some t ∨
      (∃ p, s.offering = some p ∧ t = s.offer p) ∨ (s.stoppingEnds = true ∧ t = s.setOp .idle) := by
  unfold State.settleStep at h
  split at h
  · exact .inl (by rw [← h]; assumption)
  · split at h
    · exact .inr (.inl (by rw [← h]; assumption))
    · split at h
      · exact .inr (.inr (.inl (by rw [← h]; assumption)))
      · split at h
        · rename_i p hp
          exact .inr (.inr (.inr (.inl ⟨p, hp, (Option.some.inj h).symm⟩)))
        · split at h
          · rename_i hs
            exact .inr (.inr (.inr (.inr ⟨hs, (Option.some.inj h).symm⟩)))
          · cases h

/-- What every reaction keeps, the settling keeps. -/
theorem State.settle_induct {P : State → Prop} (hstep : ∀ s t, P s → s.settleStep = some t → P t)
    {s : State} (h : P s) : P s.settle := by
  have key : ∀ k s, P s → P (State.settleN k s) := by
    intro k
    induction k with
    | zero => intro s hs; exact hs
    | succ k ih =>
      intro s hs
      unfold State.settleN
      split
      · rename_i s1 h1
        exact ih s1 (hstep s s1 hs h1)
      · exact hs
  exact key 128 s h

/-- A settled state settles to itself. -/
theorem State.settle_of_settled {s : State} (h : s.settleStep = none) : s.settle = s := by
  simp only [State.settle, State.settleN, h]

@[simp] theorem State.front_settle (s : State) : s.settle.front = s.front := by
  refine State.settle_induct (P := fun t => t.front = s.front) ?_ rfl
  intro a b ha hb
  rw [← ha]
  rcases State.settleStep_cases hb with h | h | h | ⟨p, -, rfl⟩ | ⟨-, rfl⟩
  · exact State.front_coeAdvance h
  · exact State.front_testMarker h
  · exact State.front_drainCheck h
  · simp
  · simp

/-! ## The Scan Controller -/

@[simp] theorem State.front_scanClear (s : State) : s.scanClear.front = s.front := by
  simp [State.scanClear]

@[simp] theorem State.front_stopScan (s : State) (r : EndReason) :
    (s.stopScan r).front = s.front := by simp [State.stopScan]

@[simp] theorem State.front_scanFault (s : State) (k : FaultKind) (n : Nat) :
    (s.scanFault k n).front = s.front := by simp [State.scanFault]

@[simp] theorem State.front_endCalRun (s : State) (o : CalOutcome) :
    (s.endCalRun o).front = s.front := by unfold State.endCalRun; split <;> rfl

@[simp] theorem State.front_moveFault (s : State) (k : FaultKind) :
    (s.moveFault k).front = s.front := by simp [State.moveFault]

@[simp] theorem State.front_endStopAct (s : State) : s.endStopAct.front = s.front := by
  unfold State.endStopAct; simp only []; repeat' split
  all_goals simp

@[simp] theorem State.front_homeFailed (s : State) : s.homeFailed.front = s.front := by
  unfold State.homeFailed; simp only []; split <;> simp

@[simp] theorem State.front_lateLine (s : State) : s.lateLine.front = s.front := by
  unfold State.lateLine; simp only []; repeat' split
  all_goals simp

@[simp] theorem State.front_lineStep (s : State) : s.lineStep.front = s.front := by
  unfold State.lineStep; repeat' split
  all_goals simp

@[simp] theorem State.front_scanLine (s : State) (f : Bool) (n : Nat) (px : List Pixel) :
    (s.scanLine f n px).front = s.front := by
  simp only [State.scanLine, State.drainStart]
  split <;> split <;> simp

@[simp] theorem State.front_calLine (s : State) (px : List Pixel) :
    (s.calLine px).front = s.front := by
  unfold State.calLine; simp only []; repeat' split
  all_goals first | rfl | simp [Cap.afe_darkDone]

@[simp] theorem State.front_pixelsArrive (s : State) (f : Bool) (px : List Pixel) :
    (s.pixelsArrive f px).front = s.front := by
  have h1 : (s.setCap (s.cap.takePixels s.setup.w px).1).front = s.front :=
    State.front_setCap s _ (Cap.afe_takePixels _ _ _)
  unfold State.pixelsArrive
  extract_lets taken s1
  split
  · exact h1
  · split
    · exact (State.front_scanLine _ _ _ _).trans h1
    · split
      · exact (State.front_calLine _ _).trans h1
      · exact h1

@[simp] theorem State.front_startScan (s : State) : s.startScan.front = s.front := by
  unfold State.startScan
  extract_lets u s1 s2
  have h1 : s1.front = s.front := State.front_setCap (s.setScn _) _ (Cap.afe_lampOn s.cap)
  have h2 : s2.front = s.front := (State.front_setOp _ _).trans h1
  split
  · exact (State.front_releaseRunUp s2).trans h2
  · exact h2

/-! ## The carriage's own events -/

@[simp] theorem State.front_endFell (s : State) (b : Bool) : (s.endFell b).front = s.front := by
  unfold State.endFell; split <;> rfl

@[simp] theorem State.front_stepOnce (s : State) : s.stepOnce.front = s.front := by
  simp [State.stepOnce]

@[simp] theorem State.front_captureResume (s : State) : s.captureResume.front = s.front := by
  unfold State.captureResume
  extract_lets c1 s1 c2 s2 c3 s3 s4
  have h3 : s3.front = s.front := by simp only [s3]; split <;> rfl
  have h4 : s4.front = s3.front := by
    simp only [s4]; split
    · exact State.front_setOp _ _
    · rfl
  exact (State.front_lineStep s4).trans (h4.trans h3)

@[simp] theorem State.front_homingStep (s : State) : s.homingStep.front = s.front := by
  unfold State.homingStep; simp only []; repeat' split
  all_goals simp

@[simp] theorem State.front_motionStep (s : State) : s.motionStep.front = s.front := by
  unfold State.motionStep; simp only []; repeat' split
  all_goals simp

@[simp] theorem State.front_rangeEnd (s : State) : s.rangeEnd.front = s.front := by
  unfold State.rangeEnd; split <;> simp

@[simp] theorem State.front_startInterval (s : State) (e : Nat) :
    (s.startInterval e).front = s.front := by unfold State.startInterval; split <;> simp

@[simp] theorem State.front_homeArrives (s : State) : s.homeArrives.front = s.front := by
  simp [State.homeArrives]

@[simp] theorem State.front_intervalExpires (s : State) (e : Nat) :
    (s.intervalExpires e).front = s.front := by
  unfold State.intervalExpires; repeat' split
  all_goals simp

@[simp] theorem State.front_brakingExpires (s : State) : s.brakingExpires.front = s.front := by
  unfold State.brakingExpires; simp only []; repeat' split
  all_goals simp

@[simp] theorem State.front_holdExpires (s : State) : s.holdExpires.front = s.front := by
  unfold State.holdExpires; simp only []; repeat' split
  all_goals simp

@[simp] theorem State.front_homeRises (s : State) : s.homeRises.front = s.front := by
  unfold State.homeRises; simp only []; split <;> simp

@[simp] theorem State.front_homeFalls (s : State) : s.homeFalls.front = s.front := by
  unfold State.homeFalls; simp only []; repeat' split
  all_goals simp

@[simp] theorem State.front_endRises (s : State) : s.endRises.front = s.front := by
  unfold State.endRises; simp only []; split <;> simp

@[simp] theorem State.front_homeLimit (s : State) : s.homeLimit.front = s.front := by
  unfold State.homeLimit; repeat' split
  all_goals simp

/-! ## Commands, dispatch and the arbiter -/

@[simp] theorem State.front_abortNow (s : State) : s.abortNow.front = s.front := by
  unfold State.abortNow; repeat' split
  all_goals simp

@[simp] theorem State.front_takeMove (s : State) (n : Nat) : (s.takeMove n).front = s.front := by
  unfold State.takeMove; simp only []; split <;> simp

/-- A command that is answered at its dispatch touches nothing of this, but SOFT_RESET sets the pending
reset (R170, R177). -/
theorem State.front_act (s : State) {k : Kind} (p : List Byte) (hk : (s.act k p).reply ≠ none) :
    (s.act k p).state.front =
      { s.front with resetPending := s.lif.resetPending || decide (k = .softReset) } := by
  have hs : ∀ k, k ≠ Kind.softReset → { s.front with
      resetPending := s.lif.resetPending || decide (k = Kind.softReset) } = s.front := by
    intro k hk
    simp [hk, State.front]
  cases k
  case softReset => simp [State.act, State.actSoftReset, State.answer, State.front]
  case afeWrite => exact absurd rfl hk
  case afeRead => exact absurd rfl hk
  all_goals rw [hs _ (by decide)]
  all_goals simp only [State.act, State.answer, State.actIdentify, State.actStatus,
    State.actAbort, State.actSetup, State.actProfile, State.actFormatRule, State.actScanStart,
    State.actMark, State.actSpeedCap, State.actLamp, State.actHome, State.actMove,
    State.actCalRun, State.actCalLoad, State.actCalRead, State.actCauseEnable, State.actCauseClear]
  all_goals repeat' split
  all_goals first | rfl | simp [Cap.afe_lampOn, Cap.afe_loadTable]

/-- A judged record is answered with nothing done, or it is a command whose state and form are accepted
and which acts (R170, R179). -/
theorem State.judgeRecord_cases (s : State) (r : Record) :
    (∃ p, s.judgeRecord r = s.answer p) ∨
      (∃ k, kindOf r.kind = some k ∧ s.refusesNow k = false ∧ k.formOk r.payload = true ∧
        s.judgeRecord r = s.act k r.payload) := by
  unfold State.judgeRecord State.judge
  split
  · rename_i k hk
    split
    · exact .inl ⟨_, rfl⟩
    · rename_i h1
      split
      · rename_i h2
        exact .inr ⟨k, hk, by simpa using h1, h2, rfl⟩
      · exact .inl ⟨_, rfl⟩
  · exact .inl ⟨_, rfl⟩

/-- Only a front-end transfer is not answered at its dispatch (R19). -/
theorem State.act_noReply {s : State} {k : Kind} {p : List Byte} (h : (s.act k p).reply = none) :
    k = .afeWrite ∨ k = .afeRead := by
  cases k
  case afeWrite => exact .inl rfl
  case afeRead => exact .inr rfl
  all_goals
    exfalso; revert h
    simp only [State.act, State.answer, State.actIdentify, State.actStatus, State.actSoftReset,
      State.actAbort, State.actSetup, State.actProfile, State.actFormatRule, State.actScanStart,
      State.actMark, State.actSpeedCap, State.actLamp, State.actHome, State.actMove,
      State.actCalRun, State.actCalLoad, State.actCalRead, State.actCauseEnable, State.actCauseClear]
    repeat' split
    all_goals simp

/-! ## Of the rest, the queue of waiting commands -/

theorem State.pending_of_front {s t : State} (h : t.front = s.front) : t.pending = s.pending :=
  congrArg Front.pending h

@[simp] theorem State.pending_raise (s : State) (c : Cause) :
    (s.raise c).pending = s.pending := pending_of_front (State.front_raise s c)
@[simp] theorem State.pending_settle (s : State) :
    s.settle.pending = s.pending := pending_of_front (State.front_settle s)
@[simp] theorem State.pending_giveRoom (s : State) :
    s.giveRoom.pending = s.pending := pending_of_front (State.front_giveRoom s)
@[simp] theorem State.pending_lateLine (s : State) :
    s.lateLine.pending = s.pending := pending_of_front (State.front_lateLine s)
@[simp] theorem State.pending_stopScan (s : State) (r : EndReason) :
    (s.stopScan r).pending = s.pending := pending_of_front (State.front_stopScan s r)
@[simp] theorem State.pending_releaseRunUp (s : State) :
    s.releaseRunUp.pending = s.pending := pending_of_front (State.front_releaseRunUp s)
@[simp] theorem State.pending_intervalExpires (s : State) (e : Nat) :
    (s.intervalExpires e).pending = s.pending := pending_of_front (State.front_intervalExpires s e)
@[simp] theorem State.pending_endFell (s : State) (b : Bool) :
    (s.endFell b).pending = s.pending := pending_of_front (State.front_endFell s b)
@[simp] theorem State.pending_brakingExpires (s : State) :
    s.brakingExpires.pending = s.pending := pending_of_front (State.front_brakingExpires s)
@[simp] theorem State.pending_holdExpires (s : State) :
    s.holdExpires.pending = s.pending := pending_of_front (State.front_holdExpires s)
@[simp] theorem State.pending_homeRises (s : State) :
    s.homeRises.pending = s.pending := pending_of_front (State.front_homeRises s)
@[simp] theorem State.pending_homeFalls (s : State) :
    s.homeFalls.pending = s.pending := pending_of_front (State.front_homeFalls s)
@[simp] theorem State.pending_endRises (s : State) :
    s.endRises.pending = s.pending := pending_of_front (State.front_endRises s)
@[simp] theorem State.pending_homeLimit (s : State) :
    s.homeLimit.pending = s.pending := pending_of_front (State.front_homeLimit s)
@[simp] theorem State.pending_pixelsArrive (s : State) (f : Bool) (px : List Pixel) :
    (s.pixelsArrive f px).pending = s.pending := pending_of_front (State.front_pixelsArrive s f px)
@[simp] theorem State.pending_finishRepair (s : State) (e : Repairing) :
    (s.finishRepair e).pending = s.pending := pending_of_front (State.front_finishRepair s e)

theorem State.pending_takeImage {s t : State} {r : Record} (h : s.takeImage = some (r, t)) :
    t.pending = s.pending := pending_of_front (State.front_takeImage h)

theorem State.pending_takePreview {s t : State} {r : Record} (h : s.takePreview = some (r, t)) :
    t.pending = s.pending := pending_of_front (State.front_takePreview h)

@[simp] theorem State.pending_softReset (s : State) : s.softReset.pending = s.pending := rfl

@[simp] theorem State.pending_act (s : State) (k : Kind) (p : List Byte) :
    (s.act k p).state.pending = s.pending := by
  by_cases hk : (s.act k p).reply = none
  · rcases State.act_noReply hk with rfl | rfl <;> rfl
  · exact congrArg Front.pending (State.front_act s p hk)

@[simp] theorem State.pending_judgeRecord (s : State) (r : Record) :
    (s.judgeRecord r).state.pending = s.pending := by
  rcases State.judgeRecord_cases s r with ⟨p, h⟩ | ⟨k, -, -, -, h⟩ <;> rw [h]
  · rfl
  · exact State.pending_act s k r.payload

@[simp] theorem State.pending_freeSlot (s : State) : s.freeSlot.pending = s.pending := by
  unfold State.freeSlot; split <;> rfl

@[simp] theorem State.pending_pushReply (s : State) (r : Record) :
    (s.pushReply r).pending = s.pending := rfl

@[simp] theorem State.pending_dispatch (s : State) (r : Record) :
    (s.dispatch r).pending = s.pending := by
  unfold State.dispatch; simp only []; split <;> simp

@[simp] theorem State.pending_dispatchWaiting (s : State) : s.dispatchWaiting.pending = s.pending := by
  unfold State.dispatchWaiting; repeat' split
  all_goals simp

@[simp] theorem State.pending_receiveGood (s : State) (r : Record) :
    (s.receiveGood r).pending = s.pending := by
  unfold State.receiveGood; simp only []; split <;> simp

@[simp] theorem State.pending_send (s : State) (r : Record) : (s.send r).pending = s.pending := rfl

@[simp] theorem State.pending_noticeDone (s : State) : s.noticeDone.pending = s.pending := rfl

@[simp] theorem State.pending_chooseData (s : State) : s.chooseData.pending = s.pending := by
  unfold State.chooseData
  split
  · simp
  · split
    · rename_i h; simp [State.pending_takeImage h]
    · split
      · rename_i h; simp [State.pending_takePreview h]
      · rfl

@[simp] theorem State.pending_chooseUnsolicited (s : State) :
    s.chooseUnsolicited.pending = s.pending := by
  unfold State.chooseUnsolicited; repeat' split
  all_goals simp

@[simp] theorem State.pending_arbitrate (s : State) : s.arbitrate.pending = s.pending := by
  unfold State.arbitrate; repeat' split
  all_goals simp

@[simp] theorem State.pending_finish (s : State) : s.finish.pending = s.pending := by
  simp [State.finish]

@[simp] theorem State.pending_recordEnds (s : State) : s.recordEnds.pending = s.pending := by
  unfold State.recordEnds; repeat' split
  all_goals simp

/-! ## The framer and the rows -/

@[simp] theorem State.pending_linkError (s : State) (e : LinkError) :
    (s.linkError e).pending = s.pending := by simp [State.linkError]

@[simp] theorem State.pending_setFramer (s : State) (f : Framer) :
    (s.setFramer f).pending = s.pending := rfl

@[simp] theorem State.pending_recordArrives (s : State) (r : Record) :
    (s.recordArrives r).pending = s.pending := by simp [State.recordArrives]

@[simp] theorem State.pending_takeByte (s : State) (b : Byte) : (s.takeByte b).pending = s.pending := by
  unfold State.takeByte State.headerDone; simp only []; repeat' split
  all_goals simp

@[simp] theorem State.pending_takeBytes (s : State) (bs : List Byte) :
    (s.takeBytes bs).pending = s.pending := by
  induction bs generalizing s with
  | nil => rfl
  | cons b bs ih => rw [State.takeBytes, ih, State.pending_takeByte]

@[simp] theorem State.pending_commandRow (s : State) (k t : Byte) (p : List Byte) :
    (s.commandRow k t p).pending = s.pending := by
  unfold State.commandRow; split <;> simp

@[simp] theorem State.pending_holderLeaves (s : State) : s.holderLeaves.pending = s.pending := by
  unfold State.holderLeaves; simp only []; repeat' split
  all_goals simp

@[simp] theorem State.pending_warmupEnds (s : State) : s.warmupEnds.pending = s.pending := by
  unfold State.warmupEnds; simp only []; repeat' split
  all_goals simp

@[simp] theorem State.pending_calTimerEnds (s : State) : s.calTimerEnds.pending = s.pending := by
  unfold State.calTimerEnds; repeat' split
  all_goals simp

@[simp] theorem State.pending_transferEnds (s : State) (t : AfeTransfer) (n : Option AfeByte) (d : Byte) :
    (s.transferEnds t n d).pending = s.pending := by
  unfold State.transferEnds; simp only []; repeat' split
  all_goals simp

end Sys2Proof.Machine
end

