-- ==== Sys2Proof/Laws/Capture.lean ====
section
/-! SUPPORT. What keeps capture and the ring safe: the view of the state that it speaks of, the image path
as a run of changes outside that view, demands and releases, and one lemma per operation. -/

namespace Sys2Proof.Machine

/-- What the safety of capture speaks of. -/
structure CaptureView where
  count : Nat
  trc : Trc
  op : OpState
  endDue : Prop
  ringEmpty : Bool
  gateOpen : Bool
  inFlight : Bool
  cal : Bool
  calTimer : Bool

/-- What the safety of capture speaks of, of a state. -/
def State.captureView (s : State) : CaptureView :=
  ⟨s.rng.lines.length, s.trc, s.scn.op, .scanEnd ∈ s.scn.due, s.scn.drain.ringEmpty, s.cap.gateOpen,
    s.cap.inFlight.isSome, s.cap.cal.isSome, s.cap.calTimer⟩

/-- The part of the safety of capture that does not speak of the gate, of the demand or of a run. -/
structure CaptureBase (s : State) : Prop where
  capacity : s.rng.lines.length ≤ Config.ringCapacity
  flight : s.scn.op = .scanning → s.cap.inFlight ≠ none → s.rng.lines.length < Config.ringCapacity
  empty : s.scn.op.holdsNoLines = true → s.rng.lines = []
  transport : s.trc.scanOn = true → s.scn.op = .preparing ∨ s.scn.op = .scanning
  ended : .scanEnd ∈ s.scn.due ∨ s.scn.drain.ringEmpty = true →
    s.scn.op ≠ .preparing ∧ s.scn.op ≠ .scanning ∧ s.rng.lines = []
  calRun : s.cap.cal ≠ none → s.scn.op = .positioning ∨ s.scn.op = .calibrating
  calTimer : s.cap.calTimer = true → s.cap.cal ≠ none

/-- A run of the carriage toward a capture is in scan transport with no demand at S0. -/
def Trc.runOk (t : Trc) : Prop :=
  t.motion = .approaching ∨ t.motion = .backtracking → t.braking = false →
    t.scanOn = true ∧ t.resolved ≠ .s0

/-- What the gate OPEN asks of the Transport Controller. -/
def Trc.gateOk (t : Trc) : Prop :=
  t.motion = .cruising ∧ t.braking = false ∧ t.scanOn = true ∧ t.resolved ≠ .s0

section views

variable {s t : State}

theorem CaptureSafe.base (h : CaptureSafe s) : CaptureBase s :=
  ⟨h.capacity, h.flight, h.empty, h.transport, h.ended, h.calRun, h.calTimer⟩

theorem CaptureSafe.runOk (h : CaptureSafe s) : s.trc.runOk := h.run

theorem CaptureSafe.gateOk (h : CaptureSafe s) (g : s.cap.gateOpen = true) : s.trc.gateOk := (h.gate g).2

theorem CaptureBase.safe (b : CaptureBase s) (demand : s.trc.ring = ringGrade s.rng.lines.length)
    (gate : s.cap.gateOpen = true → s.scn.op = .scanning ∧ s.trc.gateOk) (run : s.trc.runOk) :
    CaptureSafe s :=
  ⟨b.capacity, demand, gate, run, b.flight, b.empty, b.transport, b.ended, b.calRun, b.calTimer⟩

theorem CaptureBase.of_view (h : CaptureBase s) (e : t.captureView = s.captureView) : CaptureBase t := by
  have hc : t.rng.lines.length = s.rng.lines.length := congrArg CaptureView.count e
  have ht : t.trc = s.trc := congrArg CaptureView.trc e
  have ho : t.scn.op = s.scn.op := congrArg CaptureView.op e
  have hd : (ScnReport.scanEnd ∈ t.scn.due) = (.scanEnd ∈ s.scn.due) := congrArg CaptureView.endDue e
  have hr : t.scn.drain.ringEmpty = s.scn.drain.ringEmpty := congrArg CaptureView.ringEmpty e
  have hf : t.cap.inFlight.isSome = s.cap.inFlight.isSome := congrArg CaptureView.inFlight e
  have hk : t.cap.cal.isSome = s.cap.cal.isSome := congrArg CaptureView.cal e
  have hm : t.cap.calTimer = s.cap.calTimer := congrArg CaptureView.calTimer e
  have hn : (t.rng.lines = []) = (s.rng.lines = []) := by
    rw [← List.length_eq_zero_iff, ← List.length_eq_zero_iff, hc]
  have hf1 : (t.cap.inFlight ≠ none) = (s.cap.inFlight ≠ none) := by
    rw [← Option.isSome_iff_ne_none, ← Option.isSome_iff_ne_none, hf]
  have hk1 : (t.cap.cal ≠ none) = (s.cap.cal ≠ none) := by
    rw [← Option.isSome_iff_ne_none, ← Option.isSome_iff_ne_none, hk]
  constructor
  · rw [hc]; exact h.capacity
  · rw [ho, hf1, hc]; exact h.flight
  · rw [ho, hn]; exact h.empty
  · rw [ht, ho]; exact h.transport
  · rw [hd, hr, ho, hn]; exact h.ended
  · rw [hk1, ho]; exact h.calRun
  · rw [hm, hk1]; exact h.calTimer

theorem CaptureSafe.of_view (h : CaptureSafe s) (e : t.captureView = s.captureView) : CaptureSafe t := by
  have hc : t.rng.lines.length = s.rng.lines.length := congrArg CaptureView.count e
  have ht : t.trc = s.trc := congrArg CaptureView.trc e
  have ho : t.scn.op = s.scn.op := congrArg CaptureView.op e
  have hg : t.cap.gateOpen = s.cap.gateOpen := congrArg CaptureView.gateOpen e
  refine (h.base.of_view e).safe ?_ ?_ ?_
  · rw [ht, hc]; exact h.demand
  · rw [hg, ho, ht]; exact h.gate
  · rw [ht]; exact h.run

theorem CaptureSafe.gate_shut (h : CaptureSafe s) (ho : s.scn.op ≠ .scanning) : s.cap.gateOpen = false := by
  by_contra hg
  exact ho (h.gate (by simpa using hg)).1

theorem CaptureBase.scanOff (h : CaptureBase s) (h1 : s.scn.op ≠ .preparing) (h2 : s.scn.op ≠ .scanning) :
    s.trc.scanOn = false := by
  by_contra hs
  rcases h.transport (by simpa using hs) with e | e
  · exact h1 e
  · exact h2 e

theorem CaptureBase.noRun (h : CaptureBase s) (h1 : s.scn.op ≠ .positioning) (h2 : s.scn.op ≠ .calibrating) :
    s.cap.cal = none := by
  by_contra hc
  rcases h.calRun hc with e | e
  · exact h1 e
  · exact h2 e

/-- Only with the ring full does its demand stand at S0 (R30). -/
theorem ringGrade_ne_s0 {n : Nat} : ringGrade n ≠ .s0 ↔ n < Config.ringCapacity := by
  unfold ringGrade Config.ringCapacity
  split
  · simp; omega
  · split
    · simp; omega
    · split
      · simp; omega
      · simp; omega

theorem Trc.ring_ne_s0 {x : Trc} (h : x.resolved ≠ .s0) : x.ring ≠ .s0 := by
  intro e
  apply h
  unfold Trc.resolved
  rw [e]
  cases x.repair <;> cases x.table <;> cases x.cap <;> rfl

/-- With no demand at S0 the ring has room for a line (R21, R30, R135). -/
theorem CaptureSafe.room (h : CaptureSafe s) (hr : s.trc.resolved ≠ .s0) :
    s.rng.lines.length < Config.ringCapacity := by
  have h1 := Trc.ring_ne_s0 hr
  rw [h.demand] at h1
  exact ringGrade_ne_s0.mp h1

end views

/-! ## Updates of one block -/

section updates

variable {s t : State}

/-- A change of the Transport Controller that keeps the ring's demand and starts no scan transport. -/
theorem CaptureBase.setTrc (h : CaptureBase s) {x : Trc} (hs : x.scanOn = true → s.trc.scanOn = true) :
    CaptureBase (s.setTrc x) :=
  ⟨h.capacity, h.flight, h.empty, fun e => h.transport (hs e), h.ended, h.calRun, h.calTimer⟩

theorem CaptureSafe.setTrc (h : CaptureSafe s) {x : Trc} (hr : x.ring = s.trc.ring)
    (hs : x.scanOn = true → s.trc.scanOn = true) (hg : s.cap.gateOpen = true → x.gateOk)
    (hk : x.runOk) : CaptureSafe (s.setTrc x) :=
  (h.base.setTrc hs).safe (hr.trans h.demand) (fun e => ⟨(h.gate e).1, hg e⟩) hk

/-- A change of the Transport Controller that keeps motion, demands and scan transport. -/
theorem CaptureSafe.setTrc_same (h : CaptureSafe s) {x : Trc} (h1 : x.motion = s.trc.motion)
    (h2 : x.braking = s.trc.braking) (h3 : x.scanOn = s.trc.scanOn) (h4 : x.ring = s.trc.ring)
    (h5 : x.resolved = s.trc.resolved) : CaptureSafe (s.setTrc x) := by
  refine h.setTrc h4 (by rw [h3]; exact id) ?_ ?_
  · intro g
    have := h.gateOk g
    unfold Trc.gateOk at this ⊢
    rw [h1, h2, h3, h5]; exact this
  · have := h.runOk
    unfold Trc.runOk at this ⊢
    rw [h1, h2, h3, h5]; exact this

/-- A change of the Capture Unit that opens nothing and starts no line. -/
theorem CaptureBase.setCap (h : CaptureBase s) {x : Cap}
    (hf : x.inFlight ≠ none → s.cap.inFlight ≠ none) (hc : x.cal ≠ none → s.cap.cal ≠ none)
    (hm : x.calTimer = true → x.cal ≠ none) : CaptureBase (s.setCap x) :=
  ⟨h.capacity, fun e f => h.flight e (hf f), h.empty, h.transport, h.ended, fun e => h.calRun (hc e), hm⟩

theorem CaptureSafe.setCap (h : CaptureSafe s) {x : Cap}
    (hg : x.gateOpen = true → s.cap.gateOpen = true)
    (hf : x.inFlight ≠ none → s.cap.inFlight ≠ none) (hc : x.cal ≠ none → s.cap.cal ≠ none)
    (hm : x.calTimer = true → x.cal ≠ none) : CaptureSafe (s.setCap x) :=
  (h.base.setCap hf hc hm).safe h.demand (fun e => h.gate (hg e)) h.run

end updates

/-! ## Flags: nothing of the view -/

@[simp] theorem State.view_setFrd (s : State) (x : Frd) : (s.setFrd x).captureView = s.captureView := rfl
@[simp] theorem State.view_setDfd (s : State) (x : Dfd) : (s.setDfd x).captureView = s.captureView := rfl
@[simp] theorem State.view_setRpe (s : State) (x : Rpe) : (s.setRpe x).captureView = s.captureView := rfl
@[simp] theorem State.view_setCoe (s : State) (x : Coe) : (s.setCoe x).captureView = s.captureView := rfl
@[simp] theorem State.view_setLif (s : State) (x : Lif) : (s.setLif x).captureView = s.captureView := rfl
@[simp] theorem State.view_setNtu (s : State) (x : Ntu) : (s.setNtu x).captureView = s.captureView := rfl
@[simp] theorem State.view_setPins (s : State) (x : Pins) : (s.setPins x).captureView = s.captureView := rfl
@[simp] theorem State.view_setPending (s : State) (x : List Instr) :
    (s.setPending x).captureView = s.captureView := rfl

theorem State.view_setScn (s : State) {x : Scn} (h1 : x.op = s.scn.op)
    (h2 : .scanEnd ∈ x.due ↔ .scanEnd ∈ s.scn.due) (h3 : x.drain.ringEmpty = s.scn.drain.ringEmpty) :
    (s.setScn x).captureView = s.captureView := by
  simp [State.captureView, h1, h2, h3]

theorem State.view_setRng (s : State) {x : Rng} (h : x.lines.length = s.rng.lines.length) :
    (s.setRng x).captureView = s.captureView := by simp [State.captureView, h]

@[simp] theorem State.view_noticeDue (s : State) : s.noticeDue.captureView = s.captureView := rfl

@[simp] theorem State.view_raise (s : State) (c : Cause) : (s.raise c).captureView = s.captureView := by
  unfold State.raise; simp only []; repeat' split
  all_goals rfl

@[simp] theorem State.view_evalHalted (s : State) : s.evalHalted.captureView = s.captureView := by
  unfold State.evalHalted; simp only []; split <;> simp

theorem State.view_setOp (s : State) (op : OpState) :
    (s.setOp op).captureView = { s.captureView with op := op } := by
  simp only [State.setOp, State.view_evalHalted]; rfl

section ops

variable {s t : State}

/-- Enter another operation state. -/
theorem CaptureSafe.setOp (h : CaptureSafe s) (op : OpState)
    (hg : s.cap.gateOpen = true → op = .scanning)
    (hf : op = .scanning → s.cap.inFlight ≠ none → s.rng.lines.length < Config.ringCapacity)
    (he : op.holdsNoLines = true → s.rng.lines = [])
    (ht : s.trc.scanOn = true → op = .preparing ∨ op = .scanning)
    (hd : .scanEnd ∈ s.scn.due ∨ s.scn.drain.ringEmpty = true → op ≠ .preparing ∧ op ≠ .scanning)
    (hc : s.cap.cal ≠ none → op = .positioning ∨ op = .calibrating) : CaptureSafe (s.setOp op) := by
  have h1 : CaptureSafe (s.setScn { s.scn with op := op }) :=
    ⟨h.capacity, h.demand, fun e => ⟨hg e, h.gateOk e⟩, h.run, hf, he, ht,
      fun e => ⟨(hd e).1, (hd e).2, (h.ended e).2.2⟩, hc, h.calTimer⟩
  exact h1.of_view (State.view_evalHalted _)

/-- From an operation state in which nothing is captured and no scan transport runs into another one. -/
theorem CaptureSafe.setOp_still (h : CaptureSafe s) (op : OpState) (h1 : s.scn.op ≠ .preparing)
    (h2 : s.scn.op ≠ .scanning) (he : s.rng.lines = []) (h3 : op ≠ .preparing) (h4 : op ≠ .scanning)
    (hc : s.cap.cal ≠ none → op = .positioning ∨ op = .calibrating) : CaptureSafe (s.setOp op) := by
  refine h.setOp op ?_ (fun e => absurd e h4) (fun _ => he) ?_ (fun _ => ⟨h3, h4⟩) hc
  · intro g; rw [h.gate_shut h2] at g; cases g
  · intro g; rw [h.base.scanOff h1 h2] at g; cases g

end ops

/-! ## The carriage -/

section carriage

variable {s t : State}

theorem Trc.runOk_parked {x : Trc} (h : x.motion = .parked) : x.runOk := by
  intro e; rw [h] at e; simp at e

theorem Trc.runOk_braking {x : Trc} (h : x.braking = true) : x.runOk := by
  intro _ e; rw [h] at e; cases e

theorem CaptureSafe.moveComplete (h : CaptureSafe s) : CaptureSafe s.moveComplete := by
  unfold State.moveComplete
  split
  · rename_i ho
    split
    · rename_i hc
      have hc1 : s.cap.cal ≠ none := Option.isSome_iff_ne_none.mp hc
      have h1 : CaptureSafe (s.setCap s.cap.beginDarkSettle) := by
        refine h.setCap id id (fun _ => hc1) ?_
        intro _
        simpa [Cap.beginDarkSettle] using hc1
      refine h1.setOp_still _ ?_ ?_ (h.empty (by rw [ho]; rfl)) (by decide) (by decide)
        (fun _ => .inr rfl)
      · show s.scn.op ≠ _; rw [ho]; decide
      · show s.scn.op ≠ _; rw [ho]; decide
    · rename_i hc
      refine h.setOp_still _ (by rw [ho]; decide) (by rw [ho]; decide) (h.empty (by rw [ho]; rfl))
        (by decide) (by decide) ?_
      intro e
      exact absurd (Option.isSome_iff_ne_none.mpr e) hc
  · exact h

theorem CaptureSafe.moveArrived (h : CaptureSafe s) (hg : s.cap.gateOpen = false) :
    CaptureSafe s.moveArrived := by
  refine CaptureSafe.moveComplete (h.setTrc rfl id ?_ (Trc.runOk_parked rfl))
  intro g; rw [hg] at g; cases g

theorem CaptureSafe.beginMove (h : CaptureSafe s) (hg : s.cap.gateOpen = false) (n : Nat) :
    CaptureSafe (s.beginMove n) := by
  unfold State.beginMove
  split
  · exact h.moveArrived hg
  · refine h.setTrc rfl id ?_ ?_
    · intro g; rw [hg] at g; cases g
    · intro e; simp at e

theorem CaptureSafe.beginHoming (h : CaptureSafe s) (hg : s.cap.gateOpen = false) :
    CaptureSafe s.beginHoming := by
  refine h.setTrc rfl id ?_ ?_
  · intro g; rw [hg] at g; cases g
  · intro e; simp at e

theorem CaptureSafe.beginApproach (h : CaptureSafe s) (hg : s.cap.gateOpen = false)
    (hs : s.trc.scanOn = true) (hr : s.trc.resolved ≠ .s0) : CaptureSafe s.beginApproach := by
  refine h.setTrc rfl id ?_ (fun _ _ => ⟨hs, hr⟩)
  intro g; rw [hg] at g; cases g

theorem CaptureSafe.beginBacktrack (h : CaptureSafe s) (hg : s.cap.gateOpen = false)
    (hs : s.trc.scanOn = true) (hr : s.trc.resolved ≠ .s0) : CaptureSafe s.beginBacktrack := by
  unfold State.beginBacktrack
  extract_lets target t1 s1
  have h1 : CaptureSafe s1 := h.setTrc_same rfl rfl rfl rfl rfl
  split
  · exact h1.beginApproach hg hs hr
  · refine h1.setTrc rfl id ?_ (fun _ _ => ⟨hs, hr⟩)
    intro g; rw [show s1.cap.gateOpen = false from hg] at g; cases g

/-- The stop event of a carriage whose gate is SHUT: no more is asked of its motion before. -/
theorem CaptureBase.stopEvent (b : CaptureBase s) (demand : s.trc.ring = ringGrade s.rng.lines.length)
    (hg : s.cap.gateOpen = false) : CaptureSafe s.stopEvent := by
  unfold State.stopEvent
  extract_lets q t1 s1
  have b1 : CaptureBase s1 := b.setTrc id
  have g1 : s1.cap.gateOpen = false := hg
  have h1 : CaptureSafe s1 := by
    refine b1.safe demand ?_ (Trc.runOk_parked rfl)
    intro g; rw [g1] at g; cases g
  generalize q = q0
  split
  · exact h1.beginHoming g1
  · exact h1.beginMove g1 _
  · unfold State.resumeAtRest
    split
    · rename_i hc
      simp only [Bool.and_eq_true, decide_eq_true_eq] at hc
      split
      · exact h1.beginBacktrack g1 hc.1.1 hc.2
      · exact h1.setTrc_same rfl rfl rfl rfl rfl
    · exact h1

theorem CaptureBase.brake (b : CaptureBase s) (demand : s.trc.ring = ringGrade s.rng.lines.length)
    (hg : s.cap.gateOpen = false) : CaptureSafe s.brake := by
  unfold State.brake
  extract_lets x s1
  have b1 : CaptureBase s1 := b.setTrc id
  split
  · refine b1.safe demand ?_ (Trc.runOk_braking rfl)
    intro g; rw [show s1.cap.gateOpen = false from hg] at g; cases g
  · exact b1.stopEvent demand hg

theorem CaptureSafe.stopEvent (h : CaptureSafe s) (hg : s.cap.gateOpen = false) :
    CaptureSafe s.stopEvent := h.base.stopEvent h.demand hg

theorem CaptureSafe.brake (h : CaptureSafe s) (hg : s.cap.gateOpen = false) : CaptureSafe s.brake :=
  h.base.brake h.demand hg

/-- What a stop order leaves: the Transport Controller braking or PARKED, out of scan transport, its
demands as they were, and nothing else changed (R130, R144). -/
theorem State.stopOrder_eq (s : State) : ∃ x : Trc, s.stopOrder = s.setTrc x ∧ x.scanOn = false ∧
    x.ring = s.trc.ring ∧ x.repair = s.trc.repair ∧ x.table = s.trc.table ∧ x.cap = s.trc.cap ∧
    (x.braking = true ∨ x.motion = .parked) ∧ x.position = s.trc.position ∧ x.valid = s.trc.valid := by
  unfold State.stopOrder
  simp only []
  split
  · rename_i hb
    exact ⟨_, rfl, rfl, rfl, rfl, rfl, rfl, .inl hb, rfl, rfl⟩
  · split
    · rename_i hm
      exact ⟨_, rfl, rfl, rfl, rfl, rfl, rfl, .inr hm, rfl, rfl⟩
    · split
      · exact ⟨_, rfl, rfl, rfl, rfl, rfl, rfl, .inr rfl, rfl, rfl⟩
      · unfold State.brake
        simp only []
        split
        · exact ⟨_, rfl, rfl, rfl, rfl, rfl, rfl, .inl rfl, rfl, rfl⟩
        · exact ⟨_, rfl, rfl, rfl, rfl, rfl, rfl, .inr rfl, rfl, rfl⟩

theorem CaptureSafe.stopOrder (h : CaptureSafe s) (hg : s.cap.gateOpen = false) :
    CaptureSafe s.stopOrder := by
  obtain ⟨x, e, h1, h2, -, -, -, h3, -⟩ := s.stopOrder_eq
  rw [e]
  refine h.setTrc h2 (by rw [h1]; intro c; cases c) (by rw [hg]; intro c; cases c) ?_
  rcases h3 with h3 | h3
  · exact Trc.runOk_braking h3
  · exact Trc.runOk_parked h3

/-! ## Demands -/

theorem Trc.keep_motion (x : Trc) (src : Source) (g : Grade) : (x.keep src g).motion = x.motion ∧
    (x.keep src g).braking = x.braking ∧ (x.keep src g).scanOn = x.scanOn := by
  cases src <;> exact ⟨rfl, rfl, rfl⟩

theorem CaptureBase.halt (b : CaptureBase s) (demand : s.trc.ring = ringGrade s.rng.lines.length) :
    CaptureSafe s.halt := by
  unfold State.halt
  extract_lets c1 s1 x1 s2
  have b1 : CaptureBase s1 := b.setCap id id b.calTimer
  have b2 : CaptureBase s2 := b1.setTrc id
  exact b2.brake demand rfl

/-- A demand is posted: the carriage brakes, ramps or holds as the resolved grade says (R135 to R141). The
ring's demand fits its lines once it is kept. -/
theorem CaptureSafe.of_post (b : CaptureBase s) (src : Source) (g : Grade)
    (demand : (s.trc.keep src g).ring = ringGrade s.rng.lines.length)
    (gate : s.cap.gateOpen = true → s.scn.op = .scanning ∧ s.trc.gateOk) (run : s.trc.runOk) :
    CaptureSafe (s.post src g) := by
  obtain ⟨km, kb, ks⟩ := s.trc.keep_motion src g
  unfold State.post
  extract_lets s1
  have v : s1.captureView = (s.setTrc (s.trc.keep src g)).captureView := State.view_evalHalted _
  have b1 : CaptureBase s1 := CaptureBase.of_view (b.setTrc (by rw [ks]; exact id)) v
  have et : s1.trc = s.trc.keep src g := congrArg CaptureView.trc v
  have eg : s1.cap.gateOpen = s.cap.gateOpen := congrArg CaptureView.gateOpen v
  have eo : s1.scn.op = s.scn.op := congrArg CaptureView.op v
  have en : s1.rng.lines.length = s.rng.lines.length := congrArg CaptureView.count v
  have d1 : s1.trc.ring = ringGrade s1.rng.lines.length := by rw [et, en]; exact demand
  have gateOff : (s.trc.motion ≠ .cruising ∨ s.trc.braking = true ∨ s.trc.scanOn = false) →
      s1.cap.gateOpen = false := by
    intro hn
    rw [eg]
    by_contra hg
    have := (gate (by simpa using hg)).2
    rcases hn with hn | hn | hn
    · exact hn this.1
    · rw [this.2.1] at hn; cases hn
    · rw [this.2.2.1] at hn; cases hn
  rw [← et] at km kb ks
  split
  · rename_i hr
    refine b1.safe d1 ?_ ?_
    · intro h
      have h2 := gate (eg ▸ h)
      refine ⟨eo.trans h2.1, ?_⟩
      unfold Trc.gateOk at h2 ⊢
      rw [km, kb, ks, hr]; exact h2.2
    · unfold Trc.runOk at run ⊢
      rw [km, kb, ks, hr]; exact run
  · generalize hr : s1.trc.resolved = r
    have still : s1.cap.gateOpen = false → s1.trc.runOk → ∀ x : Trc, x.motion = s1.trc.motion →
        x.braking = s1.trc.braking → x.scanOn = s1.trc.scanOn → x.ring = s1.trc.ring →
        x.resolved = s1.trc.resolved → CaptureSafe (s1.setTrc x) := by
      intro hg hk x h1 h2 h3 h4 h5
      refine CaptureSafe.setTrc_same (b1.safe d1 ?_ hk) h1 h2 h3 h4 h5
      intro h; rw [hg] at h; cases h
    unfold State.gradeChanged
    split
    · rename_i hs
      have hs1 : s1.trc.scanOn = false := by simpa using hs
      refine b1.safe d1 ?_ ?_
      · intro h; rw [gateOff (.inr (.inr (ks ▸ hs1)))] at h; cases h
      · intro h1 h2
        have := (run (km ▸ h1) (kb ▸ h2)).1
        rw [← ks, hs1] at this; cases this
    · rename_i hs
      have hs1 : s1.trc.scanOn = true := by simpa using hs
      split
      · rename_i hb
        have hk : s1.trc.runOk := by
          simp only [Bool.or_eq_true, decide_eq_true_eq] at hb
          rcases hb with hb | hb
          · exact Trc.runOk_braking hb
          · exact Trc.runOk_parked hb
        have hg : s1.cap.gateOpen = false := by
          simp only [Bool.or_eq_true, decide_eq_true_eq] at hb
          rcases hb with hb | hb
          · exact gateOff (.inr (.inl (kb ▸ hb)))
          · exact gateOff (.inl (by rw [← km, hb]; decide))
        have h1 : CaptureSafe s1 := b1.safe d1 (by rw [hg]; intro h; cases h) hk
        unfold State.rehold
        split
        · exact still hg hk _ rfl rfl rfl rfl rfl
        · split
          · exact still hg hk _ rfl rfl rfl rfl rfl
          · exact h1
      · rename_i hb
        have hb1 : s1.trc.braking = false := by
          simp only [Bool.or_eq_true, decide_eq_true_eq, not_or] at hb
          simpa using hb.1
        have keep : r ≠ .s0 → CaptureSafe s1 := by
          intro hr0
          refine b1.safe d1 ?_ (fun _ _ => ⟨hs1, by rw [hr]; exact hr0⟩)
          intro h
          have h2 := gate (eg ▸ h)
          exact ⟨eo.trans h2.1, km.trans h2.2.1, hb1, hs1, by rw [hr]; exact hr0⟩
        split
        · unfold State.regrade
          split
          · split
            · exact b1.halt d1
            · rename_i hm
              exact b1.brake d1 (gateOff (.inl (km ▸ hm)))
          · rename_i hr0
            repeat' split
            · exact keep hr0
            · exact (keep hr0).setTrc_same rfl rfl rfl rfl rfl
            · exact (keep hr0).setTrc_same rfl rfl rfl rfl rfl
            · exact (keep hr0).setTrc_same rfl rfl rfl rfl rfl
        · rename_i hgr
          split
          · refine b1.brake d1 (gateOff (.inl ?_))
            rw [← km]
            intro hm
            exact hgr (by simp [Trc.graded, hm])
          · rename_i hr0
            exact keep hr0

theorem CaptureSafe.post (h : CaptureSafe s) {src : Source} (hs : src ≠ .ring) (g : Grade) :
    CaptureSafe (s.post src g) := by
  refine CaptureSafe.of_post h.base src g ?_ h.gate h.run
  cases src
  · exact absurd rfl hs
  · exact h.demand
  · exact h.demand
  · exact h.demand

end carriage

/-! ## The ring -/

section ring

variable {s t : State}

theorem Trc.keep_ring (x : Trc) (g : Grade) : (x.keep .ring g).ring = g := rfl

theorem CaptureSafe.ringAppend (h : CaptureSafe s) (n : Nat) (px : List Pixel)
    (ho : s.scn.op = .scanning) (hf : s.cap.inFlight = none)
    (hr : s.rng.lines.length < Config.ringCapacity) : CaptureSafe (s.ringAppend n px) := by
  unfold State.ringAppend
  extract_lets entry s1
  have b1 : CaptureBase s1 := by
    refine ⟨?_, fun _ e => absurd hf e, ?_, h.transport, ?_, h.calRun, h.calTimer⟩
    · show (s.rng.lines ++ [entry]).length ≤ _
      simp only [List.length_append, List.length_singleton]
      omega
    · intro e
      rw [show s1.scn.op = .scanning from ho] at e
      cases e
    · intro e
      exact absurd ho (h.ended e).2.1
  exact CaptureSafe.of_post b1 .ring _ rfl h.gate h.run

theorem List.length_dropWhile_le' {α : Type} (p : α → Bool) (l : List α) :
    (l.dropWhile p).length ≤ l.length := (List.dropWhile_sublist p).length_le

theorem CaptureSafe.ringRelease (h : CaptureSafe s) : CaptureSafe s.ringRelease := by
  unfold State.ringRelease
  extract_lets kept s1 c2 s2
  split
  · exact h
  · have hl : kept.length ≤ s.rng.lines.length := List.length_dropWhile_le' _ _
    have hn : s.rng.lines = [] → kept = [] := by
      intro e
      rw [e] at hl
      exact List.length_eq_zero_iff.mp (Nat.le_zero.mp hl)
    have b2 : CaptureBase s2 := by
      refine ⟨Nat.le_trans hl h.capacity, fun e f => Nat.lt_of_le_of_lt hl (h.flight e f),
        fun e => hn (h.empty e), h.transport, ?_, h.calRun, h.calTimer⟩
      intro e
      have := h.ended e
      exact ⟨this.1, this.2.1, hn this.2.2⟩
    exact CaptureSafe.of_post b2 .ring _ rfl h.gate h.run

end ring

/-! ## The image path

A run of the image path is a chain of changes outside the view, of demands of the other three sources and of
evaluations of release. -/

/-- `t` comes from `s` by such a chain. -/
inductive ImagePath (s : State) : State → Prop
  | start : ImagePath s s
  | other {t u : State} : ImagePath s t → u.captureView = t.captureView → ImagePath s u
  | post {t : State} (src : Source) (g : Grade) : ImagePath s t → src ≠ .ring →
      ImagePath s (t.post src g)
  | release {t : State} : ImagePath s t → ImagePath s t.ringRelease

section path

variable {s t u : State}

theorem ImagePath.trans (h : ImagePath s t) (k : ImagePath t u) : ImagePath s u := by
  induction k with
  | start => exact h
  | other _ e ih => exact ih.other e
  | post src g _ hs ih => exact ih.post src g hs
  | release _ ih => exact ih.release

/-- The image path keeps capture safe. -/
theorem CaptureSafe.imagePath (h : CaptureSafe s) (k : ImagePath s t) : CaptureSafe t := by
  induction k with
  | start => exact h
  | other _ e ih => exact ih.of_view e
  | post src g _ hs ih => exact ih.post hs g
  | release _ ih => exact ih.ringRelease

/-- From `s` to `t` no gate opens and no calibration run starts. -/
def State.calmer (s t : State) : Prop :=
  (s.cap.gateOpen = false → t.cap.gateOpen = false) ∧ (s.cap.cal = none → t.cap.cal = none)

theorem State.calmer.trans (h : s.calmer t) (k : t.calmer u) : s.calmer u :=
  ⟨fun e => k.1 (h.1 e), fun e => k.2 (h.2 e)⟩

theorem State.calmer_cap (e : t.cap = s.cap) : s.calmer t := by
  unfold State.calmer; rw [e]; exact ⟨id, id⟩

theorem State.calmer_view (e : t.captureView = s.captureView) : s.calmer t := by
  have hg : t.cap.gateOpen = s.cap.gateOpen := congrArg CaptureView.gateOpen e
  have hk : t.cap.cal.isSome = s.cap.cal.isSome := congrArg CaptureView.cal e
  refine ⟨hg.trans, fun h => ?_⟩
  rw [h] at hk
  simpa using hk

theorem State.calmer_setOp (s : State) (op : OpState) : s.calmer (s.setOp op) := by
  have h := s.view_setOp op
  have hg : (s.setOp op).cap.gateOpen = s.cap.gateOpen := congrArg CaptureView.gateOpen h
  have hk : (s.setOp op).cap.cal.isSome = s.cap.cal.isSome := congrArg CaptureView.cal h
  refine ⟨hg.trans, fun e => ?_⟩
  rw [e] at hk
  simpa using hk

theorem State.calmer_moveComplete (s : State) : s.calmer s.moveComplete := by
  unfold State.moveComplete
  split
  · split
    · rename_i hc
      refine State.calmer.trans (t := s.setCap s.cap.beginDarkSettle) ⟨id, fun e => ?_⟩
        (State.calmer_setOp _ _)
      rw [e] at hc; cases hc
    · exact State.calmer_setOp _ _
  · exact State.calmer_cap rfl

theorem State.calmer_beginMove (s : State) (n : Nat) : s.calmer (s.beginMove n) := by
  unfold State.beginMove
  split
  · exact State.calmer.trans (t := s.setTrc { s.trc with motion := .parked, target := none, interval := 0 })
      (State.calmer_cap rfl) (State.calmer_moveComplete _)
  · exact State.calmer_cap rfl

theorem State.calmer_stopEvent (s : State) : s.calmer s.stopEvent := by
  unfold State.stopEvent
  extract_lets q x s1
  have h1 : s.calmer s1 := State.calmer_cap rfl
  generalize q = q0
  refine h1.trans ?_
  split
  · exact State.calmer_cap rfl
  · exact State.calmer_beginMove _ _
  · unfold State.resumeAtRest State.beginBacktrack
    repeat' split
    all_goals first | exact State.calmer_cap rfl | (simp only []; split <;> exact State.calmer_cap rfl)

theorem State.calmer_brake (s : State) : s.calmer s.brake := by
  unfold State.brake
  extract_lets x s1
  have h1 : s.calmer s1 := State.calmer_cap rfl
  split
  · exact h1
  · exact h1.trans (State.calmer_stopEvent _)

theorem State.calmer_gradeChanged (s : State) (r : Grade) : s.calmer (s.gradeChanged r) := by
  have h0 : s.calmer s := State.calmer_cap rfl
  unfold State.gradeChanged
  split
  · exact h0
  · split
    · unfold State.rehold; repeat' split
      all_goals exact State.calmer_cap rfl
    · split
      · unfold State.regrade
        repeat' split
        · unfold State.halt
          extract_lets c1 s1 x s2
          have h2 : s.calmer s2 := ⟨fun _ => rfl, id⟩
          exact h2.trans (State.calmer_brake _)
        · exact State.calmer_brake _
        all_goals exact State.calmer_cap rfl
      · split
        · exact State.calmer_brake _
        · exact h0

theorem State.calmer_post (s : State) (src : Source) (g : Grade) : s.calmer (s.post src g) := by
  unfold State.post
  extract_lets s1
  have h1 : s.calmer s1 := State.calmer.trans (t := s.setTrc (s.trc.keep src g)) (State.calmer_cap rfl)
    (State.calmer_view (State.view_evalHalted _))
  split
  · exact h1
  · exact h1.trans (State.calmer_gradeChanged _ _)

theorem State.calmer_ringAppend (s : State) (n : Nat) (px : List Pixel) : s.calmer (s.ringAppend n px) := by
  unfold State.ringAppend
  extract_lets entry s1
  have h1 : s.calmer s1 := State.calmer_cap rfl
  exact h1.trans (State.calmer_post _ _ _)

theorem State.calmer_ringRelease (s : State) : s.calmer s.ringRelease := by
  unfold State.ringRelease
  extract_lets kept s1 c2 s2
  have h2 : s.calmer s2 := State.calmer_cap rfl
  split
  · exact State.calmer_cap rfl
  · exact h2.trans (State.calmer_post _ _ _)

/-- The image path opens no gate and starts no calibration run. -/
theorem ImagePath.calmer (k : ImagePath s t) : s.calmer t := by
  induction k with
  | start => exact State.calmer_cap rfl
  | other _ e ih => exact ih.trans (State.calmer_view e)
  | post src g _ _ ih => exact ih.trans (State.calmer_post _ src g)
  | release _ ih => exact ih.trans (State.calmer_ringRelease _)

end path

/-! ## Frames, defects, repair and output run along the image path -/

section image

variable {s t : State}

theorem ImagePath.of_view (e : t.captureView = s.captureView) : ImagePath s t := .other .start e

theorem ImagePath.setFrd (h : ImagePath s t) (x : Frd) : ImagePath s (t.setFrd x) := h.other rfl
theorem ImagePath.setDfd (h : ImagePath s t) (x : Dfd) : ImagePath s (t.setDfd x) := h.other rfl
theorem ImagePath.setRpe (h : ImagePath s t) (x : Rpe) : ImagePath s (t.setRpe x) := h.other rfl
theorem ImagePath.setCoe (h : ImagePath s t) (x : Coe) : ImagePath s (t.setCoe x) := h.other rfl
theorem ImagePath.setLif (h : ImagePath s t) (x : Lif) : ImagePath s (t.setLif x) := h.other rfl

theorem ImagePath.setScn (h : ImagePath s t) {x : Scn} (h1 : x.op = t.scn.op) (h2 : x.due = t.scn.due)
    (h3 : x.drain = t.scn.drain) : ImagePath s (t.setScn x) :=
  h.other (State.view_setScn t h1 (by rw [h2]) (by rw [h3]))

theorem ImagePath.postTable (h : ImagePath s t) : ImagePath s t.postTable := h.post .table _ (by decide)

theorem ImagePath.postRepair (h : ImagePath s t) : ImagePath s t.postRepair := h.post .repair _ (by decide)

theorem ImagePath.createFrame (h : ImagePath s t) (top : Nat) : ImagePath s (t.createFrame top) := by
  unfold State.createFrame
  exact ImagePath.postTable ((h.setCoe _).setFrd _)

theorem ImagePath.freeSliver (h : ImagePath s t) (f : Frame) : ImagePath s (t.freeSliver f) := by
  unfold State.freeSliver
  extract_lets c1 s1 c2
  have h1 : ImagePath s s1 := h.setFrd _
  exact ImagePath.postTable (h1.setScn rfl rfl rfl)

theorem ImagePath.freeFrame (h : ImagePath s t) (n : Nat) : ImagePath s (t.freeFrame n) := by
  unfold State.freeFrame
  exact ImagePath.postTable (h.setFrd _)

theorem ImagePath.placeFrameDone (h : ImagePath s t) (n : Nat) : ImagePath s (t.placeFrameDone n) := by
  unfold State.placeFrameDone
  split
  · exact ImagePath.release (ImagePath.freeFrame (h.setLif _) n)
  · exact h

theorem ImagePath.placeFrd (h : ImagePath s t) : ImagePath s t.placeFrd := by
  unfold State.placeFrd
  split
  · exact h
  · exact (h.setLif _).setFrd _
  · exact ImagePath.placeFrameDone (h.setFrd _) _

theorem ImagePath.offerFrd (h : ImagePath s t) : ImagePath s t.offerFrd := by
  unfold State.offerFrd State.offerBy State.joinWaitList
  repeat' split
  · exact h.placeFrd
  · exact h
  · exact h.setLif _

theorem ImagePath.closeFrame (h : ImagePath s t) (f : Frame) (p : Probed) (n : Nat) (r : CloseReason) :
    ImagePath s (t.closeFrame f p n r) := by
  unfold State.closeFrame
  extract_lets c frd
  split
  · exact h.setFrd _
  · exact ImagePath.offerFrd (h.setFrd _)

theorem ImagePath.enterGap (h : ImagePath s t) (n : Nat) : ImagePath s (t.enterGap n) := by
  unfold State.enterGap
  extract_lets c1 s1
  have h1 : ImagePath s s1 := h.setFrd _
  repeat' split
  · exact h1
  · exact h1.freeSliver _
  · exact h1
  · exact h1.closeFrame _ _ _ _

theorem ImagePath.frdInGap (h : ImagePath s t) (n : Nat) (c : LineClass) (g : List Nat) :
    ImagePath s (t.frdInGap n c g) := by
  unfold State.frdInGap
  simp only []
  split
  · split
    · exact ImagePath.createFrame (h.setFrd _) _
    · exact h.setFrd _
  · exact h.setFrd _

theorem ImagePath.frdInImage (h : ImagePath s t) (n : Nat) (c : LineClass) (g : List Nat) :
    ImagePath s (t.frdInImage n c g) := by
  unfold State.frdInImage
  extract_lets probing probe run c1 s1
  have h1 : ImagePath s s1 := h.setFrd _
  split
  · exact h1.enterGap n
  · exact h1

theorem ImagePath.frdProbeStage (h : ImagePath s t) (n : Nat) : ImagePath s (t.frdProbeStage n) := by
  unfold State.frdProbeStage
  repeat' split
  · unfold State.completeProbe
    extract_lets p frd s1 c2
    have h1 : ImagePath s s1 := h.setFrd _
    exact ImagePath.offerFrd (h1.setScn rfl rfl rfl)
  · exact h
  · exact h

theorem ImagePath.frdCloseStage (h : ImagePath s t) (n : Nat) : ImagePath s (t.frdCloseStage n) := by
  unfold State.frdCloseStage
  split
  · split
    · split
      · exact h.freeSliver _
      · exact h
    · split
      · exact h
      · split
        · exact h.closeFrame _ _ _ _
        · split
          · unfold State.forceClose
            exact ImagePath.createFrame ((h.closeFrame _ _ _ _).setFrd _) _
          · exact h
  · exact h

theorem State.view_refreshSettled (s : State) : s.refreshSettled.captureView = s.captureView := by
  unfold State.refreshSettled; repeat' split
  all_goals rfl

theorem ImagePath.frdLine (h : ImagePath s t) (n : Nat) (px : List Pixel) :
    ImagePath s (t.frdLine n px) := by
  unfold State.frdLine
  extract_lets u win greens mG cls inGap s3 s4 s6
  have h3 : ImagePath s s3 := by
    simp only [s3]
    cases inGap
    · exact h.frdInGap _ _ _
    · exact h.frdInImage _ _ _
  have h4 : ImagePath s s4 := by
    simp only [s4]
    split
    · exact h3.setFrd _
    · exact h3
  have h6 : ImagePath s s6 := (h4.frdProbeStage n).frdCloseStage n
  exact (h6.setFrd _).other (State.view_refreshSettled _)

theorem State.view_maskLine (s : State) (j : Nat) : (s.maskLine j).captureView = s.captureView := by
  unfold State.maskLine
  exact State.view_setRng s (by simp [writeMask])

theorem State.view_keepRegion (s : State) (ts : List TestSpan) (r : Region) :
    (s.keepRegion ts r).1.captureView = s.captureView := by
  unfold State.keepRegion; split <;> rfl

theorem State.view_trackRun (n : Nat) (acc : State × List TestSpan) (run : Run) :
    (State.trackRun n acc run).1.captureView = acc.1.captureView := by
  unfold State.trackRun
  simp only []
  repeat' split
  · rfl
  · simp
  · exact State.view_keepRegion _ _ _
  · exact State.view_keepRegion _ _ _

theorem State.view_trackRuns (n : Nat) (runs : List Run) (acc : State × List TestSpan) :
    (runs.foldl (State.trackRun n) acc).1.captureView = acc.1.captureView := by
  induction runs generalizing acc with
  | nil => rfl
  | cons r rs ih => rw [List.foldl_cons, ih, State.view_trackRun]

theorem State.view_repairTake (s : State) : s.repairTake.captureView = s.captureView := by
  unfold State.repairTake; repeat' split
  all_goals rfl

theorem State.view_makeReady (s : State) (r : Region) : (s.makeReady r).captureView = s.captureView := by
  unfold State.makeReady
  split
  · exact State.view_repairTake _
  · rfl

theorem ImagePath.makeAllReady (h : ImagePath s t) (rs : List Region) :
    ImagePath s (t.makeAllReady rs) := by
  unfold State.makeAllReady
  refine ImagePath.postRepair (h.other ?_)
  generalize byFirst rs = l
  clear h
  induction l generalizing t with
  | nil => rfl
  | cons r l ih => rw [List.foldl_cons, ih, State.view_makeReady]

theorem State.view_maskLines (l : List Nat) (s : State) :
    (l.foldl State.maskLine s).captureView = s.captureView := by
  induction l generalizing s with
  | nil => rfl
  | cons j l ih => rw [List.foldl_cons, ih, State.view_maskLine]

theorem ImagePath.dfdLast (h : ImagePath s t) (n : Nat) : ImagePath s (t.dfdLast n) := by
  unfold State.dfdLast
  exact ImagePath.makeAllReady ((h.other (State.view_maskLines _ t)).setDfd _) _

theorem ImagePath.dfdLine (h : ImagePath s t) (n a b : Nat) (px : List Pixel) :
    ImagePath s (t.dfdLine n a b px) := by
  unfold State.dfdLine
  extract_lets u s2 s3 c4 s4 s5 s6
  have h2 : s2.1.captureView = t.captureView := by
    simp only [s2, State.dfdRuns]
    split <;> rfl
  have h3 : s3.captureView = t.captureView := (State.view_trackRuns _ _ _).trans h2
  have h4 : s4.captureView = t.captureView := h3
  have h5 : s5.captureView = t.captureView := by
    simp only [s5]
    split
    · exact (State.view_maskLine _ _).trans h4
    · exact h4
  have h6 : ImagePath s s6 := ImagePath.makeAllReady (h.other h5) _
  split
  · exact h6.dfdLast n
  · exact h6

theorem ImagePath.finishRepair (h : ImagePath s t) (e : Repairing) : ImagePath s (t.finishRepair e) := by
  unfold State.finishRepair
  extract_lets counts s1 d2 s2 s3 c4 s4
  have h1 : s1.captureView = t.captureView := State.view_setRng _ (by simp [repairRing])
  have h3 : s3.captureView = t.captureView := by
    simp only [s3]
    split
    · exact h1
    · exact h1
  refine ImagePath.release (ImagePath.postRepair (h.other ?_))
  exact (State.view_repairTake s4).trans h3

theorem State.view_completePreviewRow (s : State) :
    s.completePreviewRow.captureView = s.captureView := by
  unfold State.completePreviewRow
  simp only []
  split
  · rfl
  · simp

theorem State.view_previewLine (s : State) (px : List Pixel) :
    (s.previewLine px).captureView = s.captureView := by
  unfold State.previewLine
  simp only []
  repeat' split
  · exact State.view_completePreviewRow _
  · rfl
  · rfl

theorem State.view_previewTail (s : State) : s.previewTail.captureView = s.captureView := by
  unfold State.previewTail
  repeat' split
  · exact State.view_completePreviewRow _
  · rfl
  · rfl

theorem State.view_coeAdvance (h : s.coeAdvance = some t) : t.captureView = s.captureView := by
  unfold State.coeAdvance at h
  repeat' split at h
  all_goals cases h
  all_goals first | rfl | exact State.view_refreshSettled _

theorem ImagePath.takeImage {r : Record} (h : s.takeImage = some (r, t)) : ImagePath s t := by
  unfold State.takeImage at h
  simp only [] at h
  repeat' split at h
  all_goals cases h
  · exact ImagePath.start.setCoe _
  · exact ImagePath.release ((ImagePath.start.setCoe _).setFrd _)

theorem State.view_takePreview {r : Record} (h : s.takePreview = some (r, t)) :
    t.captureView = s.captureView := by
  unfold State.takePreview at h
  simp only [] at h
  repeat' split at h
  all_goals cases h
  all_goals rfl

end image

/-! ## Reports, markers and the end of a drain -/

section reports

variable {s t : State}

theorem CaptureSafe.placeCal (h : CaptureSafe s) : CaptureSafe s.placeCal := by
  unfold State.placeCal
  split
  · exact h
  · rename_i r hr
    extract_lets c1 s1
    have h1 : CaptureSafe s1 := h.of_view rfl
    split
    · rename_i run hrun
      split
      · have hop : s1.scn.op = .positioning ∨ s1.scn.op = .calibrating :=
          h.calRun (by rw [hrun]; exact Option.some_ne_none run)
        have h2 : CaptureSafe (s1.setCap (s1.cap.writeResults run (decide (r.outcome = .passed)))) :=
          h1.setCap id id (fun e => absurd rfl e) (fun e => by cases e)
        refine h2.setOp_still _ ?_ ?_ ?_ (by decide) (by decide) (fun e => absurd rfl e)
        · show s1.scn.op ≠ _; rcases hop with e | e <;> rw [e] <;> decide
        · show s1.scn.op ≠ _; rcases hop with e | e <;> rw [e] <;> decide
        · exact h.empty (by rcases hop with e | e <;> rw [show s.scn.op = _ from e] <;> rfl)
      · exact h1
    · exact h1

theorem CaptureSafe.placeFrd (h : CaptureSafe s) : CaptureSafe s.placeFrd :=
  h.imagePath ImagePath.start.placeFrd

theorem CaptureSafe.placeCoe (h : CaptureSafe s) : CaptureSafe s.placeCoe := by
  unfold State.placeCoe
  split
  · exact h.imagePath (ImagePath.placeFrameDone (ImagePath.start.setCoe _) _)
  · exact h.imagePath (ImagePath.start.setCoe _)

/-- A report that has been placed leaves the others due. -/
theorem CaptureSafe.dropDue (h : CaptureSafe s) {x : Scn} {r : ScnReport} {rest : List ScnReport}
    (e : s.scn.due = r :: rest) (h1 : x.op = s.scn.op) (h2 : x.due = rest)
    (h3 : x.drain.ringEmpty = s.scn.drain.ringEmpty) : CaptureSafe (s.setScn x) := by
  refine ⟨h.capacity, h.demand, ?_, h.run, ?_, ?_, ?_, ?_, ?_, h.calTimer⟩
  · intro g; exact ⟨h1.trans (h.gate g).1, h.gateOk g⟩
  · show x.op = _ → _; rw [h1]; exact h.flight
  · show x.op.holdsNoLines = _ → _; rw [h1]; exact h.empty
  · show _ → x.op = _ ∨ x.op = _; rw [h1]; exact h.transport
  · show .scanEnd ∈ x.due ∨ x.drain.ringEmpty = true → x.op ≠ _ ∧ x.op ≠ _ ∧ _
    rw [h1, h2, h3]
    intro k
    refine h.ended ?_
    rw [e]
    rcases k with k | k
    · exact .inl (List.mem_cons_of_mem _ k)
    · exact .inr k
  · show _ → x.op = _ ∨ x.op = _; rw [h1]; exact h.calRun

theorem CaptureSafe.pushReport (h : CaptureSafe s) (r : Record) : CaptureSafe (s.pushReport r) :=
  h.of_view rfl

theorem CaptureSafe.placeScn (h : CaptureSafe s) : CaptureSafe s.placeScn := by
  unfold State.placeScn
  split
  · exact h
  · rename_i rest e
    split
    · exact CaptureSafe.dropDue (h.pushReport _) e rfl rfl rfl
    · exact h.dropDue e rfl rfl rfl
  · rename_i f rest e
    exact CaptureSafe.dropDue (h.pushReport _) e rfl rfl rfl
  · rename_i rest e
    extract_lets c1 s1
    have h1 : CaptureSafe s1 := CaptureSafe.dropDue (h.pushReport _) e rfl rfl rfl
    split
    · rename_i ho
      have hn := h.ended (.inl (by rw [e]; exact List.mem_cons_self ..))
      refine h1.setOp_still _ hn.1 hn.2.1 hn.2.2 (by decide) (by decide) ?_
      intro k
      have := h.calRun k
      rw [ho] at this
      rcases this with k | k <;> cases k
    · exact h1

theorem CaptureSafe.place (h : CaptureSafe s) (p : Producer) : CaptureSafe (s.place p) := by
  cases p
  · exact h.placeCal
  · exact h.placeFrd
  · exact h.placeCoe
  · exact h.placeScn

theorem CaptureSafe.joinWaitList (h : CaptureSafe s) (p : Producer) : CaptureSafe (s.joinWaitList p) := by
  unfold State.joinWaitList
  split
  · exact h
  · exact h.of_view rfl

theorem CaptureSafe.offer (h : CaptureSafe s) (p : Producer) : CaptureSafe (s.offer p) := by
  unfold State.offer State.offerBy
  split
  · exact h.place p
  · exact h.joinWaitList p

theorem CaptureSafe.giveRoom (h : CaptureSafe s) : CaptureSafe s.giveRoom := by
  unfold State.giveRoom
  split
  · exact h
  · rename_i p rest e
    extract_lets l1 s1
    have h1 : CaptureSafe s1 := CaptureSafe.place (h.of_view (by rfl)) p
    split
    · exact h1.joinWaitList p
    · exact h1

theorem State.view_testMarker (h : s.testMarker = some t) : t.captureView = s.captureView := by
  unfold State.testMarker at h
  repeat' split at h
  all_goals cases h
  exact State.view_setScn _ rfl (by simp) rfl

theorem Scn.scanEnd_mem_reachAll (c : Scn) (b : Bool) :
    ScnReport.scanEnd ∈ (c.reachAll b).due ↔ .scanEnd ∈ c.due := by
  simp [Scn.reachAll, List.mem_replicate]

theorem CaptureSafe.drainCheck (h : CaptureSafe s) (e : s.drainCheck = some t) : CaptureSafe t := by
  unfold State.drainCheck at e
  split at e
  · rename_i ho
    extract_lets d c1 s1 c2 s2 c at e
    have hempty : d.ringEmpty = true → s.rng.lines = [] := by
      intro k
      simp only [d, State.drainNow, Bool.or_eq_true, List.isEmpty_iff] at k
      rcases k with k | k
      · exact (h.ended (.inr k)).2.2
      · exact k
    have step : ∀ x : Scn, x.op = s.scn.op → x.drain.ringEmpty = d.ringEmpty →
        (.scanEnd ∈ x.due → s.rng.lines = []) → CaptureSafe (s.setScn x) := by
      intro x h1 h2 h3
      refine ⟨h.capacity, h.demand, fun g => ⟨h1.trans (h.gate g).1, h.gateOk g⟩, h.run, ?_, ?_, ?_, ?_,
        ?_, h.calTimer⟩
      · show x.op = _ → _; rw [h1]; exact h.flight
      · show x.op.holdsNoLines = _ → _; rw [h1]; exact h.empty
      · show _ → x.op = _ ∨ x.op = _; rw [h1]; exact h.transport
      · show .scanEnd ∈ x.due ∨ x.drain.ringEmpty = true → x.op ≠ _ ∧ x.op ≠ _ ∧ _
        rw [h1, h2, ho.1]
        intro k
        refine ⟨by decide, by decide, ?_⟩
        rcases k with k | k
        · exact h3 k
        · exact hempty k
      · show _ → x.op = _ ∨ x.op = _; rw [h1]; exact h.calRun
    have v2 : s2.captureView = s1.captureView := by
      simp only [s2]; split <;> rfl
    split at e
    · cases e
    · split at e
      · rename_i hall
        cases e
        have hn : s.rng.lines = [] := hempty (by
          simp only [Drain.all, Bool.and_eq_true] at hall; tauto)
        have hs2 : s2.scn = s1.scn := by simp only [s2]; split <;> rfl
        refine CaptureSafe.of_view (s := s.setScn { c with
          endReason := some .complete, due := c.due ++ [.scanEnd] }) (step _ ?_ ?_ (fun _ => hn)) ?_
        · show c.op = _; simp only [c, hs2]; rfl
        · show c.drain.ringEmpty = _; simp only [c, hs2]; rfl
        · simp only [s2]; split <;> rfl
      · rw [← Option.some.inj e]
        have h1 : CaptureSafe s1 :=
          step { s.scn with drain := d } rfl rfl (fun k => (h.ended (.inl k)).2.2)
        exact h1.of_view v2
  · cases e

theorem CaptureSafe.settleStep (h : CaptureSafe s) (e : s.settleStep = some t) : CaptureSafe t := by
  rcases State.settleStep_cases e with k | k | k | ⟨p, -, rfl⟩ | ⟨k, rfl⟩
  · exact h.of_view (State.view_coeAdvance k)
  · exact h.of_view (State.view_testMarker k)
  · exact h.drainCheck k
  · exact h.offer p
  · simp only [State.stoppingEnds, Bool.and_eq_true, decide_eq_true_eq] at k
    have ho := k.1.1.1
    refine h.setOp_still _ (by rw [ho]; decide) (by rw [ho]; decide) (h.empty (by rw [ho]; rfl))
      (by decide) (by decide) ?_
    intro c
    have := h.calRun c
    rw [ho] at this
    rcases this with c | c <;> cases c

theorem CaptureSafe.settle (h : CaptureSafe s) : CaptureSafe s.settle :=
  State.settle_induct (fun _ _ => CaptureSafe.settleStep) h

end reports

/-! ## The Scan Controller -/

section scan

variable {s t : State}

theorem Cap.calTimer_endRun (c : Cap) (o : CalOutcome) : (c.endRun o).calTimer = false := rfl

/-- Outside scan transport a demand is kept and nothing more (R135). -/
theorem State.view_post_off (s : State) (src : Source) (g : Grade) (hs : s.trc.scanOn = false) :
    (s.post src g).captureView = { s.captureView with trc := s.trc.keep src g } := by
  unfold State.post
  extract_lets u1
  have v1 : u1.captureView = (s.setTrc (s.trc.keep src g)).captureView := State.view_evalHalted _
  have ht : u1.trc = s.trc.keep src g := congrArg CaptureView.trc v1
  split
  · exact v1
  · unfold State.gradeChanged
    rw [ht, (Trc.keep_motion _ _ _).2.2, hs]
    exact v1

theorem State.view_ringClear_off (s : State) (hs : s.trc.scanOn = false) :
    s.ringClear.captureView = { s.captureView with count := 0, trc := s.trc.keep .ring .s3 } := by
  unfold State.ringClear
  rw [State.view_post_off _ _ _ (by exact hs)]
  rfl

theorem State.view_frdClear_off (s : State) (hs : s.trc.scanOn = false) :
    s.frdClear.captureView = { s.captureView with trc := s.trc.keep .table (tableGrade 0) } := by
  unfold State.frdClear State.postTable
  extract_lets c0 u0 c1 u1 c2 u2
  rw [State.view_post_off u2 _ _ (by exact hs)]
  rfl

theorem State.view_rpeClear_off (s : State) (hs : s.trc.scanOn = false) :
    s.rpeClear.captureView = { s.captureView with trc := s.trc.keep .repair .s3 } := by
  unfold State.rpeClear
  rw [State.view_post_off _ _ _ (by exact hs)]
  rfl

/-- What the clearing of a scan leaves of the view: the ring empty, the gate SHUT with no line in flight,
the carriage out of scan transport and braking or PARKED; the rest as it was (R155). -/
theorem State.view_scanClear (s : State) : ∃ x : Trc, x.scanOn = false ∧ x.ring = .s3 ∧ x.runOk ∧
    s.scanClear.captureView = { s.captureView with
      count := 0, trc := x, gateOpen := false, inFlight := false } := by
  obtain ⟨x, e, h1, h2, -, -, -, h3, -⟩ := s.stopOrder_eq
  have hk : ∀ y : Trc, y.motion = x.motion → y.braking = x.braking → y.runOk := by
    intro y e1 e2
    rcases h3 with h3 | h3
    · exact Trc.runOk_braking (e2.trans h3)
    · exact Trc.runOk_parked (e1.trans h3)
  refine ⟨((x.keep .ring .s3).keep .table (tableGrade 0)).keep .repair .s3, h1, rfl, hk _ rfl rfl, ?_⟩
  unfold State.scanClear
  rw [e]
  extract_lets s1 s2
  have v2 : s2.captureView = { s.captureView with trc := x, gateOpen := false, inFlight := false } := rfl
  have o2 : s2.trc.scanOn = false := h1
  have t2 : s2.trc = x := rfl
  have v3 := s2.view_ringClear_off o2
  rw [v2, t2] at v3
  generalize s2.ringClear = s3 at v3
  have t3 : s3.trc = x.keep .ring .s3 := congrArg CaptureView.trc v3
  have v4 := s3.view_frdClear_off (by rw [t3]; exact h1)
  rw [v3, t3] at v4
  generalize s3.frdClear = s4 at v4
  have t4 : s4.trc = (x.keep .ring .s3).keep .table (tableGrade 0) := congrArg CaptureView.trc v4
  have v5 : s4.dfdClear.captureView = s4.captureView := rfl
  have t5 : s4.dfdClear.trc = s4.trc := rfl
  generalize s4.dfdClear = s5 at v5 t5
  have v6 := s5.view_rpeClear_off (by rw [t5, t4]; exact h1)
  rw [v5, v4, t5, t4] at v6
  generalize s5.rpeClear = s6 at v6
  have v7 : s6.coeClear.captureView = s6.captureView := rfl
  rw [v7, v6]

/-- Once a scan is cleared, any state of the Scan Controller but PREPARING and SCANNING is safe. -/
theorem State.safe_scanClear (s : State) (hcal : s.cap.cal = none) (hm : s.cap.calTimer = false)
    (x : Scn) (op : OpState) (h1 : op ≠ .preparing) (h2 : op ≠ .scanning) :
    CaptureSafe ((s.scanClear.setScn x).setOp op) := by
  obtain ⟨y, hs, hr, hk, v⟩ := s.view_scanClear
  generalize s.scanClear = u at v
  have hc : u.rng.lines = [] := List.length_eq_zero_iff.mp (congrArg CaptureView.count v)
  have ht : u.trc = y := congrArg CaptureView.trc v
  have hg : u.cap.gateOpen = false := congrArg CaptureView.gateOpen v
  have hcal1 : u.cap.cal = none := by
    have : u.cap.cal.isSome = s.cap.cal.isSome := congrArg CaptureView.cal v
    rw [hcal] at this
    simpa using this
  have hm1 : u.cap.calTimer = false := (congrArg CaptureView.calTimer v).trans hm
  have k : CaptureSafe (u.setScn { x with op := op }) := by
    constructor
    · rw [State.setScn_rng, hc]; decide
    · rw [State.setScn_rng, State.setScn_trc, hc, ht, hr]; rfl
    · rw [State.setScn_cap, hg]; intro g; cases g
    · rw [State.setScn_trc, ht]; exact hk
    · intro e; exact absurd e h2
    · intro _; exact hc
    · rw [State.setScn_trc, ht, hs]; intro e; cases e
    · intro _; exact ⟨h1, h2, hc⟩
    · rw [State.setScn_cap]; intro e; exact absurd hcal1 e
    · rw [State.setScn_cap, hm1]; intro e; cases e
  exact k.of_view (State.view_evalHalted _)

theorem CaptureBase.timerOff (h : CaptureBase s) (hc : s.cap.cal = none) : s.cap.calTimer = false := by
  by_contra hm
  exact h.calTimer (by simpa using hm) hc

/-- A scan runs only outside a calibration run. -/
theorem State.scanRuns_op (h : s.scanRuns = true) :
    s.scn.op = .preparing ∨ s.scn.op = .scanning ∨ s.scn.op = .draining := by
  unfold State.scanRuns at h
  split at h
  · rename_i e; exact .inl e
  · rename_i e; exact .inr (.inl e)
  · rename_i e; exact .inr (.inr e)
  · cases h

theorem CaptureBase.noRun_scan (h : CaptureBase s)
    (ho : s.scn.op = .preparing ∨ s.scn.op = .scanning ∨ s.scn.op = .draining) : s.cap.cal = none := by
  apply h.noRun <;> rcases ho with e | e | e <;> rw [e] <;> decide

theorem CaptureBase.stopScan (b : CaptureBase s)
    (ho : s.scn.op = .preparing ∨ s.scn.op = .scanning ∨ s.scn.op = .draining) (r : EndReason) :
    CaptureSafe (s.stopScan r) := by
  have hc := b.noRun_scan ho
  unfold State.stopScan
  exact s.safe_scanClear hc (b.timerOff hc) _ _ (by decide) (by decide)

theorem CaptureBase.scanFault (b : CaptureBase s)
    (ho : s.scn.op = .preparing ∨ s.scn.op = .scanning ∨ s.scn.op = .draining) (k : FaultKind) (n : Nat) :
    CaptureSafe (s.scanFault k n) := by
  have hc := b.noRun_scan ho
  unfold State.scanFault
  exact s.safe_scanClear hc (b.timerOff hc) _ _ (by decide) (by decide)

theorem CaptureSafe.endCalRun (h : CaptureSafe s) (o : CalOutcome) : CaptureSafe (s.endCalRun o) := by
  unfold State.endCalRun
  split
  · exact h.setCap (fun e => by cases e) (fun e => absurd rfl e) (fun e => absurd rfl e)
      (fun e => by cases e)
  · exact h

theorem State.endCalRun_cal (s : State) (o : CalOutcome) : (s.endCalRun o).cap.cal = none := by
  unfold State.endCalRun
  split
  · rfl
  · rename_i h; simpa using h

theorem State.endCalRun_scn (s : State) (o : CalOutcome) : (s.endCalRun o).scn = s.scn := by
  unfold State.endCalRun; split <;> rfl

theorem CaptureSafe.moveFault (h : CaptureSafe s) (ho : s.scn.op = .positioning) (k : FaultKind) :
    CaptureSafe (s.moveFault k) := by
  unfold State.moveFault
  extract_lets f s1
  have h1 : CaptureSafe s1 := h.endCalRun _
  have o1 : s1.scn.op = .positioning := by rw [show s1.scn = s.scn from s.endCalRun_scn _]; exact ho
  have c1 : s1.cap.cal = none := s.endCalRun_cal _
  have h2 : CaptureSafe (s1.setScn { s1.scn with due := s1.scn.due ++ [.fault f] }) :=
    h1.of_view (State.view_setScn _ rfl (by simp) rfl)
  refine h2.setOp_still _ ?_ ?_ (h1.empty (by rw [o1]; rfl)) (by decide) (by decide)
    (fun e => absurd c1 e)
  · show s1.scn.op ≠ _; rw [o1]; decide
  · show s1.scn.op ≠ _; rw [o1]; decide

theorem CaptureSafe.raise (h : CaptureSafe s) (c : Cause) : CaptureSafe (s.raise c) :=
  h.of_view (State.view_raise s c)

theorem CaptureSafe.stopAtOnce (h : CaptureSafe s) (hg : s.cap.gateOpen = false) :
    CaptureSafe s.stopAtOnce := by
  refine h.setTrc rfl id ?_ (Trc.runOk_parked rfl)
  intro g; rw [hg] at g; cases g

theorem CaptureSafe.endStopAct (h : CaptureSafe s) : CaptureSafe s.endStopAct := by
  unfold State.endStopAct
  extract_lets s1
  have v1 : s1.captureView = s.stopAtOnce.captureView := State.view_raise _ _
  have b0 : CaptureBase s.stopAtOnce := h.base.setTrc id
  have b1 : CaptureBase s1 := b0.of_view v1
  have o1 : s1.scn.op = s.scn.op := congrArg CaptureView.op v1
  have safe1 : s.scn.op ≠ .scanning → CaptureSafe s1 := fun ho =>
    (h.stopAtOnce (h.gate_shut ho)).of_view v1
  split
  · rename_i ho
    exact (safe1 (by rw [ho]; decide)).moveFault (o1.trans ho) _
  · split
    · rename_i hr
      exact b1.scanFault (by rw [o1]; exact State.scanRuns_op hr) _ _
    · rename_i hr
      refine safe1 ?_
      intro ho
      exact hr (by simp [State.scanRuns, ho])

theorem CaptureSafe.homeFailed (h : CaptureSafe s) (hg : s.cap.gateOpen = false) :
    CaptureSafe s.homeFailed := by
  have h1 := h.stopAtOnce hg
  unfold State.homeFailed
  simp only []
  split
  · rename_i ho
    exact h1.moveFault ho _
  · exact h1

theorem CaptureSafe.endCapture (h : CaptureSafe s) : CaptureSafe (s.setCap s.cap.endCapture) :=
  h.setCap (fun e => by cases e) (fun e => absurd rfl e) id h.calTimer

theorem State.stopOrder_scn (s : State) : s.stopOrder.scn = s.scn := by
  obtain ⟨x, e, -⟩ := s.stopOrder_eq
  rw [e]; rfl

theorem State.stopOrder_cap (s : State) : s.stopOrder.cap = s.cap := by
  obtain ⟨x, e, -⟩ := s.stopOrder_eq
  rw [e]; rfl

theorem State.stopOrder_rng (s : State) : s.stopOrder.rng = s.rng := by
  obtain ⟨x, e, -⟩ := s.stopOrder_eq
  rw [e]; rfl

/-- The end of a calibration run on its way: its storage discarded, the carriage ordered to stop,
STOPPING entered (R13, R155). -/
theorem CaptureSafe.stopRun (h : CaptureSafe s)
    (ho : s.scn.op = .positioning ∨ s.scn.op = .calibrating) (o : CalOutcome) :
    CaptureSafe (((s.endCalRun o).stopOrder).setOp .stopping) := by
  have hs : s.scn.op ≠ .scanning := by rcases ho with e | e <;> rw [e] <;> decide
  have hp : s.scn.op ≠ .preparing := by rcases ho with e | e <;> rw [e] <;> decide
  have h1 := h.endCalRun o
  have e1 := s.endCalRun_scn o
  have h2 := h1.stopOrder (h1.gate_shut (by rw [e1]; exact hs))
  have e2 : (s.endCalRun o).stopOrder.scn = s.scn := (State.stopOrder_scn _).trans e1
  refine h2.setOp_still _ (by rw [e2]; exact hp) (by rw [e2]; exact hs) ?_ (by decide) (by decide) ?_
  · rw [State.stopOrder_rng]
    exact h1.empty (by rw [e1]; rcases ho with e | e <;> rw [e] <;> rfl)
  · rw [State.stopOrder_cap, State.endCalRun_cal]
    exact fun e => absurd rfl e

theorem CaptureSafe.lateLine (h : CaptureSafe s) : CaptureSafe s.lateLine := by
  unfold State.lateLine
  split
  · exact h
  · rename_i f hf
    extract_lets s1
    have v1 : s1.captureView = (s.setCap s.cap.endCapture).captureView := State.view_raise _ _
    have h1 : CaptureSafe s1 := h.endCapture.of_view v1
    have o1 : s1.scn.op = s.scn.op := congrArg CaptureView.op v1
    split
    · rename_i ho
      exact h1.base.scanFault (.inr (.inl (o1.trans ho))) _ _
    · split
      · rename_i ho
        exact h1.stopRun (.inr (o1.trans ho)) _
      · exact h1

theorem CaptureSafe.lineStep (h : CaptureSafe s) : CaptureSafe s.lineStep := by
  unfold State.lineStep
  split
  · rename_i hg
    split
    · exact h.lateLine
    · have hr := h.room (h.gateOk hg).2.2.2
      exact ⟨h.capacity, h.demand, fun _ => h.gate hg, h.run, fun _ _ => hr, h.empty, h.transport, h.ended,
        h.calRun, h.calTimer⟩
  · exact h

theorem CaptureSafe.drainStart (h : CaptureSafe s) (hc : s.cap.gateOpen = false ∧ s.cap.cal = none) : CaptureSafe s.drainStart := by
  unfold State.drainStart
  have v : ((s.setOp .draining).stopOrder).ringRelease.previewTail.captureView =
      ((s.setOp .draining).stopOrder).ringRelease.captureView := State.view_previewTail _
  refine CaptureSafe.of_view (CaptureSafe.ringRelease ?_) v
  have v1 := s.view_setOp .draining
  generalize hu : s.setOp .draining = u at v1
  have uc : u.rng.lines.length = s.rng.lines.length := congrArg CaptureView.count v1
  have ut : u.trc = s.trc := congrArg CaptureView.trc v1
  have uo : u.scn.op = .draining := congrArg CaptureView.op v1
  have ud : (ScnReport.scanEnd ∈ u.scn.due) = (.scanEnd ∈ s.scn.due) := congrArg CaptureView.endDue v1
  have ur : u.scn.drain.ringEmpty = s.scn.drain.ringEmpty := congrArg CaptureView.ringEmpty v1
  have ug : u.cap.gateOpen = false := (congrArg CaptureView.gateOpen v1).trans hc.1
  have uk : u.cap.cal = none := by
    have : u.cap.cal.isSome = s.cap.cal.isSome := congrArg CaptureView.cal v1
    rw [hc.2] at this
    simpa using this
  have um : u.cap.calTimer = false := (congrArg CaptureView.calTimer v1).trans (h.base.timerOff hc.2)
  obtain ⟨x, e, h1, h2, -, -, -, h3, -⟩ := u.stopOrder_eq
  rw [e]
  constructor
  · show u.rng.lines.length ≤ _; rw [uc]; exact h.capacity
  · show x.ring = ringGrade u.rng.lines.length; rw [h2, uc, ut]; exact h.demand
  · intro g; rw [show (u.setTrc x).cap.gateOpen = false from ug] at g; cases g
  · rcases h3 with h3 | h3
    · exact Trc.runOk_braking h3
    · exact Trc.runOk_parked h3
  · intro k; rw [show (u.setTrc x).scn.op = .draining from uo] at k; cases k
  · intro k; rw [show (u.setTrc x).scn.op = .draining from uo] at k; cases k
  · intro k; rw [show (u.setTrc x).trc.scanOn = false from h1] at k; cases k
  · show .scanEnd ∈ u.scn.due ∨ u.scn.drain.ringEmpty = true → u.scn.op ≠ _ ∧ u.scn.op ≠ _ ∧ u.rng.lines = []
    rw [ud, ur, uo]
    intro k
    refine ⟨by decide, by decide, List.length_eq_zero_iff.mp ?_⟩
    rw [uc, (h.ended k).2.2]; rfl
  · intro k; exact absurd uk k
  · intro k; rw [show (u.setTrc x).cap.calTimer = false from um] at k; cases k

theorem CaptureSafe.scanLine (h : CaptureSafe s) (f : Bool) (n : Nat) (raw : List Pixel)
    (ho : s.scn.op = .scanning) (hf : s.cap.inFlight = none)
    (hr : s.rng.lines.length < Config.ringCapacity) : CaptureSafe (s.scanLine f n raw) := by
  have hcal : s.cap.cal = none := h.base.noRun (by rw [ho]; decide) (by rw [ho]; decide)
  unfold State.scanLine
  extract_lets px s1 left c1 s2 c2 s3 baseR baseIR s4 s5
  have h1 : CaptureSafe s1 := h.ringAppend n px ho hf hr
  have h2 : CaptureSafe s2 := by
    refine h1.setCap ?_ id id h1.calTimer
    intro e
    simp only [Bool.and_eq_true] at e
    exact e.1
  have h3 : CaptureSafe s3 := CaptureSafe.ringRelease
    (CaptureSafe.imagePath h2 (ImagePath.start.setScn rfl rfl rfl))
  have p4 : ImagePath s3 s4 := by
    simp only [s4]
    split
    · exact (ImagePath.start.dfdLine _ _ _ _).frdLine _ _
    · exact (ImagePath.start.frdLine _ _).dfdLine _ _ _ _
  have p5 : ImagePath s3 s5 := ImagePath.release (p4.other (State.view_previewLine _ _))
  split
  · rename_i hl
    have k1 : s.calmer s1 := s.calmer_ringAppend n px
    have g2 : s2.cap.gateOpen = false := by
      show (s1.cap.gateOpen && decide (left ≠ 0)) = false
      simp [hl]
    have k0 : s2.calmer (s2.setScn { c2 with captured := c2.captured + 1 }) := State.calmer_cap rfl
    have k3 : s2.calmer s3 := k0.trans (State.calmer_ringRelease _)
    exact (h3.imagePath p5).drainStart ⟨p5.calmer.1 (k3.1 g2), p5.calmer.2 (k3.2 (k1.2 hcal))⟩
  · exact h3.imagePath p5

end scan

/-! ## Calibration lines, scan starts and resets -/

section starts

variable {s t : State}

theorem CaptureSafe.calLine (h : CaptureSafe s) (raw : List Pixel) : CaptureSafe (s.calLine raw) := by
  unfold State.calLine
  split
  · exact h
  · rename_i run hrun
    have hc : s.cap.cal ≠ none := by rw [hrun]; exact Option.some_ne_none run
    simp only []
    split
    · split
      · refine h.setCap ?_ ?_ (fun _ => hc) ?_
        · unfold Cap.darkDone Cap.beginWarmUp Cap.lampOn
          simp only []; repeat' split
          all_goals exact id
        · unfold Cap.darkDone Cap.beginWarmUp Cap.lampOn
          simp only []; repeat' split
          all_goals exact id
        · unfold Cap.darkDone Cap.beginWarmUp Cap.lampOn
          simp only []; repeat' split
          all_goals simp [Cap.beginWhiteCapture]
      · exact h.setCap id id (fun _ => hc) (fun _ => Option.some_ne_none _)
    · split
      · exact h.setCap id id (fun _ => hc) (fun _ => Option.some_ne_none _)
      · exact h.setCap id id (fun _ => hc) (fun _ => Option.some_ne_none _)
    · exact h

theorem CaptureSafe.takePixels (h : CaptureSafe s) (w : Nat) (px : List Pixel) :
    CaptureSafe (s.setCap (s.cap.takePixels w px).1) := by
  unfold Cap.takePixels
  split
  · exact h.setCap id id id h.calTimer
  · rename_i f hf
    have hf1 : s.cap.inFlight ≠ none := by rw [hf]; exact Option.some_ne_none f
    simp only []
    split
    · exact h.setCap id (fun e => absurd rfl e) id h.calTimer
    · exact h.setCap id (fun _ => hf1) id h.calTimer

/-- A line completes only when one was in flight, and leaves none (R2). -/
theorem Cap.takePixels_done {c : Cap} {w : Nat} {px : List Pixel} {f : Flight}
    (h : (c.takePixels w px).2 = some f) : c.inFlight ≠ none ∧ (c.takePixels w px).1.inFlight = none := by
  unfold Cap.takePixels at h ⊢
  split at h
  · cases h
  · rename_i g hg
    simp only [] at h ⊢
    split at h
    · rename_i hw
      refine ⟨by rw [hg]; exact Option.some_ne_none g, ?_⟩
      rw [if_pos hw]
    · cases h

theorem CaptureSafe.pixelsArrive (h : CaptureSafe s) (b : Bool) (px : List Pixel) :
    CaptureSafe (s.pixelsArrive b px) := by
  have h1 := h.takePixels s.setup.w px
  unfold State.pixelsArrive
  extract_lets taken s1
  have hd : ∀ f, taken.2 = some f → s.cap.inFlight ≠ none ∧ s1.cap.inFlight = none :=
    fun _ e => Cap.takePixels_done e
  generalize taken.2 = r at hd
  split
  · exact h1
  · rename_i f
    obtain ⟨k1, k2⟩ := hd f rfl
    split
    · rename_i ho
      exact CaptureSafe.scanLine h1 _ _ _ ho k2 (h.flight ho k1)
    · split
      · exact CaptureSafe.calLine h1 _
      · exact h1

theorem CaptureSafe.releaseRunUp (h : CaptureSafe s) : CaptureSafe s.releaseRunUp := by
  unfold State.releaseRunUp
  extract_lets x s1
  have h1 : CaptureSafe s1 := h.setTrc_same rfl rfl rfl rfl rfl
  split
  · exact h1
  · exact h1.setTrc_same rfl rfl rfl rfl rfl

theorem Cap.lampOn_view (c : Cap) : c.lampOn.gateOpen = c.gateOpen ∧ c.lampOn.inFlight = c.inFlight ∧
    c.lampOn.cal = c.cal ∧ c.lampOn.calTimer = c.calTimer := by
  unfold Cap.lampOn; split <;> exact ⟨rfl, rfl, rfl, rfl⟩

/-- A scan starts from IDLE with no SCAN_END waiting (R149, R150). -/
theorem CaptureSafe.startScan (h : CaptureSafe s) (ho : s.scn.op = .idle)
    (hd : .scanEnd ∉ s.scn.due) : CaptureSafe s.startScan := by
  unfold State.startScan
  extract_lets u s1 s2
  have hl : s.rng.lines = [] := h.empty (by rw [ho]; rfl)
  have hc : s.cap.cal = none := h.base.noRun (by rw [ho]; decide) (by rw [ho]; decide)
  have hm : s.cap.calTimer = false := h.base.timerOff hc
  obtain ⟨-, -, l3, l4⟩ := s.cap.lampOn_view
  have k : ∀ s6, (s1.setCoe (s.coe.started u)).setTrc (s.trc.started u) = s6 →
      CaptureSafe (s6.setScn { s6.scn with op := .preparing }) := by
    intro s6 e0
    have e1 : s6.rng.lines = [] := by rw [← e0]; exact hl
    have e2 : s6.cap.gateOpen = false := by rw [← e0]; rfl
    have e3 : s6.cap.cal = none := by rw [← e0]; exact l3.trans hc
    have e4 : s6.cap.calTimer = false := by rw [← e0]; exact l4.trans hm
    have e5 : s6.scn.due = s.scn.due := by rw [← e0]; rfl
    have e6 : s6.scn.drain.ringEmpty = false := by rw [← e0]; rfl
    have e7 : s6.trc.ring = .s3 := by rw [← e0]; rfl
    have e8 : s6.trc.motion = .parked := by rw [← e0]; rfl
    generalize s6 = v at e1 e2 e3 e4 e5 e6 e7 e8
    constructor
    · rw [State.setScn_rng, e1]; decide
    · rw [State.setScn_rng, State.setScn_trc, e1, e7]; rfl
    · rw [State.setScn_cap, e2]; intro g; cases g
    · rw [State.setScn_trc]; exact Trc.runOk_parked e8
    · intro e; cases e
    · intro _; exact e1
    · intro _; exact .inl rfl
    · show .scanEnd ∈ v.scn.due ∨ v.scn.drain.ringEmpty = true → _
      rw [e5, e6]
      intro e
      rcases e with e | e
      · exact absurd e hd
      · cases e
    · rw [State.setScn_cap]; intro e; exact absurd e3 e
    · rw [State.setScn_cap, e4]; intro e; cases e
  have h2 : CaptureSafe s2 := (k _ rfl).of_view (State.view_evalHalted _)
  split
  · exact h2.releaseRunUp
  · exact h2

theorem CaptureSafe.powerOn (pins : Pins) (q : List Instr) : CaptureSafe (State.powerOn pins q) where
  capacity := Nat.zero_le _
  demand := rfl
  gate := fun e => by cases e
  run := fun e => by rcases e with e | e <;> cases e
  flight := fun e => by cases e
  empty := fun _ => rfl
  transport := fun e => by cases e
  ended := fun _ => ⟨OpState.noConfusion, OpState.noConfusion, rfl⟩
  calRun := fun e => absurd rfl e
  calTimer := fun e => by cases e

theorem State.safe_softReset (s : State) : CaptureSafe s.softReset where
  capacity := Nat.zero_le _
  demand := rfl
  gate := fun e => by cases e
  run := fun e => by rcases e with e | e <;> cases e
  flight := fun e => by cases e
  empty := fun _ => rfl
  transport := fun e => by cases e
  ended := fun _ => ⟨OpState.noConfusion, OpState.noConfusion, rfl⟩
  calRun := fun e => absurd rfl e
  calTimer := fun e => by cases e

end starts

/-! ## The carriage's own events -/

section motion

variable {s t : State}

theorem State.view_endFell (s : State) (b : Bool) : (s.endFell b).captureView = s.captureView := by
  unfold State.endFell; split <;> rfl

theorem CaptureSafe.stepOnce (h : CaptureSafe s) : CaptureSafe s.stepOnce :=
  CaptureSafe.lineStep (h.setTrc_same rfl rfl rfl rfl rfl)

/-- The approach reaches the resume position: only a run in scan transport with no demand at S0 can. -/
theorem CaptureSafe.captureResume (h : CaptureSafe s) (hm : s.trc.motion = .approaching)
    (hb : s.trc.braking = false) : CaptureSafe s.captureResume := by
  obtain ⟨hs, hr⟩ := h.run (.inl hm) hb
  have hop := h.transport hs
  have room := h.room hr
  unfold State.captureResume
  extract_lets c1 s1 c2 s2 c3 s3 s4
  refine CaptureSafe.lineStep ?_
  have b2 : CaptureBase s2 := ⟨h.capacity, h.flight, h.empty, h.transport, h.ended, h.calRun, h.calTimer⟩
  have v3 : s3.captureView = s2.captureView := by
    simp only [s3]
    split
    · exact State.view_setScn _ rfl Iff.rfl rfl
    · rfl
  have b3 : CaptureBase s3 := b2.of_view v3
  have t3 : s3.trc = s2.trc := congrArg CaptureView.trc v3
  have o3 : s3.scn.op = s.scn.op := congrArg CaptureView.op v3
  have n3 : s3.rng.lines.length = s.rng.lines.length := congrArg CaptureView.count v3
  have g2 : s2.trc.gateOk := ⟨rfl, hb, hs, hr⟩
  have run2 : s2.trc.runOk := by intro e; simp [s2, s1] at e
  have d3 : s3.trc.ring = ringGrade s3.rng.lines.length := by rw [t3, n3]; exact h.demand
  simp only [s4]
  split
  · rename_i ho
    have hop3 : s.scn.op = .preparing := o3.symm.trans ho
    have k : CaptureSafe (s3.setScn { s3.scn with op := .scanning }) := by
      refine ⟨b3.capacity, d3, fun _ => ⟨rfl, ?_⟩, ?_, ?_, ?_, fun _ => .inr rfl, ?_, ?_, b3.calTimer⟩
      · rw [State.setScn_trc, t3]; exact g2
      · rw [State.setScn_trc, t3]; exact run2
      · intro _ _; rw [State.setScn_rng, n3]; exact room
      · intro e; cases e
      · intro e
        have := (b3.ended e).1
        exact absurd ho this
      · intro e
        have := b3.calRun e
        rw [ho] at this
        rcases this with e | e <;> cases e
    exact k.of_view (State.view_evalHalted _)
  · rename_i ho
    refine b3.safe d3 (fun _ => ?_) ?_
    · rw [t3]
      refine ⟨?_, g2⟩
      rcases hop with e | e
      · exact absurd (o3.trans e) ho
      · exact o3.trans e
    · rw [t3]; exact run2

theorem CaptureSafe.homingStep (h : CaptureSafe s) (hm : s.trc.motion = .homing) :
    CaptureSafe s.homingStep := by
  have hg : s.cap.gateOpen = false := by
    by_contra g
    have := (h.gateOk (by simpa using g)).1
    rw [hm] at this; cases this
  have e1 : s.stepOnce = s.setTrc { s.trc with position := stepped s.trc.position s.trc.dir } := by
    unfold State.stepOnce State.lineStep
    rw [State.setTrc_cap, hg]
    rfl
  have h1 := h.stepOnce
  have g1 : s.stepOnce.cap.gateOpen = false := by rw [e1]; exact hg
  unfold State.homingStep
  generalize s.stepOnce = s1 at h1 g1
  simp only []
  split
  · rename_i x hx
    have h2 : CaptureSafe (s1.setTrc { s1.trc with homing := some { x with steps := x.steps + 1 } }) :=
      h1.setTrc_same rfl rfl rfl rfl rfl
    split
    · exact h2.homeFailed g1
    · exact h2
  · exact h1

/-- With the gate SHUT a step is only a step. -/
theorem State.stepOnce_shut (s : State) (hg : s.cap.gateOpen = false) :
    s.stepOnce = s.setTrc { s.trc with position := stepped s.trc.position s.trc.dir } := by
  unfold State.stepOnce State.lineStep
  rw [State.setTrc_cap, hg]
  rfl

theorem CaptureSafe.shut_of_motion (h : CaptureSafe s) (hm : s.trc.motion ≠ .cruising) :
    s.cap.gateOpen = false := by
  by_contra g
  exact hm (h.gateOk (by simpa using g)).1

theorem CaptureSafe.motionStep (h : CaptureSafe s) (hb : s.trc.braking = false) :
    CaptureSafe s.motionStep := by
  unfold State.motionStep
  split
  · exact h
  · rename_i hm
    exact h.homingStep hm
  · rename_i hm
    have hg := h.shut_of_motion (by rw [hm]; decide)
    have h1 := h.stepOnce
    rw [s.stepOnce_shut hg] at h1 ⊢
    simp only []
    split
    · exact h1.moveArrived hg
    · exact h1
  · rename_i hm
    have hg := h.shut_of_motion (by rw [hm]; decide)
    obtain ⟨hs, hr⟩ := h.run (.inr hm) hb
    have h1 := h.stepOnce
    rw [s.stepOnce_shut hg] at h1 ⊢
    simp only []
    split
    · exact h1.beginApproach hg hs hr
    · exact h1
  · rename_i hm
    have h1 : CaptureSafe (s.setTrc { s.trc with position := stepped s.trc.position s.trc.dir }) :=
      h.setTrc_same rfl rfl rfl rfl rfl
    simp only []
    split
    · exact h1.captureResume hm hb
    · exact h1.lineStep
  · exact h.stepOnce

theorem CaptureSafe.startInterval (h : CaptureSafe s) (e : Nat) : CaptureSafe (s.startInterval e) := by
  unfold State.startInterval
  split
  · exact h
  · exact h.setTrc_same rfl rfl rfl rfl rfl

theorem CaptureSafe.rangeEnd (h : CaptureSafe s) : CaptureSafe s.rangeEnd := by
  unfold State.rangeEnd
  split
  · rename_i hm; exact h.moveArrived (h.shut_of_motion (by rw [hm]; decide))
  · rename_i hm; exact h.stopEvent (h.shut_of_motion (by rw [hm]; decide))
  · rename_i hm; exact h.stopEvent (h.shut_of_motion (by rw [hm]; decide))
  · exact h
  · exact h
  · exact h

theorem State.seeksEdge_motion (h : s.seeksEdge = true) : s.trc.motion = .homing := by
  simp only [State.seeksEdge, Bool.and_eq_true, decide_eq_true_eq] at h
  exact h.1.1.2

theorem CaptureSafe.homeArrives (h : CaptureSafe s) (hm : s.trc.motion = .homing) :
    CaptureSafe s.homeArrives := by
  have hg := h.shut_of_motion (by rw [hm]; decide)
  have h2 : CaptureSafe s.stopAtOnce := h.stopAtOnce hg
  unfold State.homeArrives
  exact CaptureSafe.moveComplete (h2.setTrc_same rfl rfl rfl rfl rfl)

theorem CaptureSafe.intervalExpires (h : CaptureSafe s) (e : Nat) :
    CaptureSafe (s.intervalExpires e) := by
  unfold State.intervalExpires
  split
  · exact h
  · rename_i hb
    have hb1 : s.trc.braking = false := by
      simp only [Bool.or_eq_true, decide_eq_true_eq, not_or] at hb
      simpa using hb.1
    repeat' split
    · rename_i hm
      exact (h.captureResume hm.1 hb1).startInterval e
    · exact h.endStopAct
    · exact h.rangeEnd
    · exact (h.motionStep hb1).startInterval e

theorem CaptureSafe.brakingExpires (h : CaptureSafe s) : CaptureSafe s.brakingExpires := by
  unfold State.brakingExpires
  split
  · exact h
  · rename_i hb
    have hb1 : s.trc.braking = true := by simpa using hb
    have hg : s.cap.gateOpen = false := by
      by_contra g
      have := (h.gateOk (by simpa using g)).2.1
      rw [hb1] at this; cases this
    split
    · exact h.endStopAct
    · split
      · exact h.stopEvent hg
      · rw [s.stepOnce_shut hg]
        extract_lets x1 s1 x2 s2
        have h2 : CaptureSafe s2 := h.setTrc_same rfl rfl rfl rfl rfl
        split
        · exact h2.stopEvent hg
        · exact h2

theorem CaptureSafe.holdExpires (h : CaptureSafe s) : CaptureSafe s.holdExpires := by
  unfold State.holdExpires
  split
  · exact h
  · extract_lets x s1
    have h1 : CaptureSafe s1 := h.setTrc_same rfl rfl rfl rfl rfl
    split
    · exact h1.setTrc_same rfl rfl rfl rfl rfl
    · split
      · exact h1
      · rename_i hs
        have hs1 : s.trc.scanOn = true := by simpa using hs
        split
        · exact h1.setTrc_same rfl rfl rfl rfl rfl
        · split
          · rename_i hm
            exact h1.beginBacktrack (h.shut_of_motion (by rw [hm.1]; decide)) hs1 hm.2
          · exact h1

theorem Trc.rampStepEnds_same (x : Trc) : x.rampStepEnds.motion = x.motion ∧
    x.rampStepEnds.braking = x.braking ∧ x.rampStepEnds.scanOn = x.scanOn ∧
    x.rampStepEnds.ring = x.ring ∧ x.rampStepEnds.resolved = x.resolved := by
  unfold Trc.rampStepEnds Trc.afterRamp
  simp only []
  repeat' split
  all_goals exact ⟨rfl, rfl, rfl, rfl, rfl⟩

theorem CaptureSafe.rampStep (h : CaptureSafe s) : CaptureSafe (s.setTrc s.trc.rampStepEnds) := by
  obtain ⟨h1, h2, h3, h4, h5⟩ := s.trc.rampStepEnds_same
  exact h.setTrc_same h1 h2 h3 h4 h5

theorem CaptureSafe.setPins (h : CaptureSafe s) (x : Pins) : CaptureSafe (s.setPins x) := h.of_view rfl

theorem CaptureSafe.homeRises (h : CaptureSafe s) : CaptureSafe s.homeRises := by
  unfold State.homeRises
  extract_lets p1 s1
  have h1 : CaptureSafe s1 := h.setPins _
  split
  · rename_i hw
    exact h1.homeArrives (State.seeksEdge_motion (s := s) hw)
  · exact h1

theorem CaptureSafe.homeFalls (h : CaptureSafe s) : CaptureSafe s.homeFalls := by
  unfold State.homeFalls
  extract_lets p1 s1
  have h1 : CaptureSafe s1 := h.setPins _
  repeat' split
  · exact h1.setTrc_same rfl rfl rfl rfl rfl
  · exact h1
  · exact h1

theorem CaptureSafe.endRises (h : CaptureSafe s) : CaptureSafe s.endRises := by
  unfold State.endRises
  extract_lets p1 s1
  have h1 : CaptureSafe s1 := h.setPins _
  split
  · exact h1
  · exact h1.endStopAct

theorem CaptureSafe.homeLimit (h : CaptureSafe s) : CaptureSafe s.homeLimit := by
  unfold State.homeLimit
  split
  · split
    · rename_i hm
      split
      · exact h.homeFailed (h.shut_of_motion (by rw [hm.1]; decide))
      · exact h.intervalExpires 0
    · exact h
  · exact h

end motion

/-! ## Commands, dispatch, the arbiter and the other rows -/

section rows

variable {s t : State}

theorem CaptureSafe.takeMove (h : CaptureSafe s) (n : Nat) (ho : s.scn.op = .idle) (c : Cap)
    (h1 : c.gateOpen = s.cap.gateOpen) (h3 : c.calTimer = s.cap.calTimer) :
    CaptureSafe ((s.setCap c).takeMove n) := by
  have hg : c.gateOpen = false := h1.trans (h.gate_shut (by rw [ho]; decide))
  have hm : c.calTimer = false := h3.trans (h.base.timerOff
    (h.base.noRun (by rw [ho]; decide) (by rw [ho]; decide)))
  have hso : s.trc.scanOn = false := h.base.scanOff (by rw [ho]; decide) (by rw [ho]; decide)
  have k : CaptureSafe ((s.setCap c).setScn { s.scn with op := .positioning }) := by
    constructor
    · exact h.capacity
    · exact h.demand
    · rw [State.setScn_cap, State.setCap_cap, hg]; intro e; cases e
    · exact h.run
    · intro e; cases e
    · intro _; exact h.empty (by rw [ho]; rfl)
    · intro e; rw [State.setScn_trc, State.setCap_trc, hso] at e; cases e
    · intro e; exact ⟨OpState.noConfusion, OpState.noConfusion, h.empty (by rw [ho]; rfl)⟩
    · intro _; exact .inl rfl
    · rw [State.setScn_cap, State.setCap_cap, hm]; intro e; cases e
  unfold State.takeMove
  have v := (s.setCap c).view_setOp .positioning
  have k1 : CaptureSafe ((s.setCap c).setOp .positioning) := k.of_view (State.view_evalHalted _)
  have g1 : ((s.setCap c).setOp .positioning).cap.gateOpen = false :=
    (congrArg CaptureView.gateOpen v).trans hg
  simp only []
  split
  · exact k1.setTrc_same rfl rfl rfl rfl rfl
  · exact k1.beginMove g1 n

theorem CaptureSafe.abortNow (h : CaptureSafe s) : CaptureSafe s.abortNow := by
  unfold State.abortNow
  split
  · rename_i ho; exact h.stopRun (.inl ho) _
  · rename_i ho; exact h.stopRun (.inr ho) _
  · rename_i ho; exact h.base.stopScan (.inl ho) _
  · rename_i ho; exact h.base.stopScan (.inr (.inl ho)) _
  · rename_i ho
    split
    · exact h.base.stopScan (.inr (.inr ho)) _
    · exact h
  · rename_i ho
    refine h.setOp_still _ (by rw [ho]; decide) (by rw [ho]; decide) (h.empty (by rw [ho]; rfl))
      (by decide) (by decide) ?_
    intro c
    have := h.calRun c
    rw [ho] at this
    rcases this with e | e <;> cases e
  · exact h
  · exact h

/-- With no FAULT and no SCAN_END waiting, no SCAN_END is due. -/
theorem Scn.noEnd {c : Scn} (h : c.endWaits = false) : .scanEnd ∉ c.due := by
  intro e
  unfold Scn.endWaits at h
  rw [List.any_eq_false] at h
  exact h _ e rfl

/-- A command keeps capture safe, where it is taken. -/
theorem CaptureSafe.act (h : CaptureSafe s) {k : Kind} (p : List Byte) (hk : s.refusesNow k = false) :
    CaptureSafe (s.act k p).state := by
  simp only [State.refusesNow, Bool.or_eq_false_iff, Bool.not_eq_false'] at hk
  obtain ⟨hk, he⟩ := hk
  have idle : (∀ o, k.takenIn o = true → o = .idle) → s.scn.op = .idle := fun f => f _ hk
  cases k
  · exact h
  · exact h
  · exact h.of_view rfl
  · exact CaptureSafe.settle h.abortNow
  · simp only [State.act, State.actSetup, State.answer]
    split
    · exact h
    · have h1 : CaptureSafe (s.setScn { s.scn with setup := (setupOf p).clamped }) :=
        h.imagePath (ImagePath.start.setScn rfl rfl rfl)
      split
      · exact h1
      · exact h1.setCap id id id h.calTimer
  · simp only [State.act, State.actProfile, State.answer]
    split
    · exact h.of_view rfl
    · exact h
  · simp only [State.act, State.actFormatRule, State.answer]
    split
    · exact h
    · exact h.of_view rfl
  · simp only [State.act, State.actScanStart, State.answer]
    split
    · exact h
    · exact h.startScan (idle (fun o => by cases o <;> decide)) (Scn.noEnd (by simpa [Kind.heldByEnd] using he))
  · simp only [State.act, State.actMark, State.answer]
    split
    · exact h
    · exact CaptureSafe.settle (h.imagePath (ImagePath.start.setScn rfl rfl rfl))
  · exact h.post (by decide) _
  · obtain ⟨l1, l2, l3, l4⟩ := s.cap.lampOn_view
    refine h.setCap ?_ ?_ ?_ ?_
    all_goals split
    · rw [l1]; exact id
    · exact id
    · rw [l2]; exact id
    · exact id
    · rw [l3]; exact id
    · exact id
    · rw [l3, l4]; exact h.calTimer
    · exact h.calTimer
  · have ho : s.scn.op = .idle ∨ s.scn.op = .faulted := by
      generalize s.scn.op = o at hk
      cases o <;> first | exact .inl rfl | exact .inr rfl | cases hk
    have n1 : s.scn.op ≠ .preparing := by rcases ho with e | e <;> rw [e] <;> decide
    have n2 : s.scn.op ≠ .scanning := by rcases ho with e | e <;> rw [e] <;> decide
    have h1 : CaptureSafe (s.setOp .positioning) :=
      h.setOp_still _ n1 n2 (h.empty (by rcases ho with e | e <;> rw [e] <;> rfl))
        (by decide) (by decide) (fun _ => .inl rfl)
    have g1 : (s.setOp .positioning).cap.gateOpen = false :=
      (congrArg CaptureView.gateOpen (s.view_setOp _)).trans (h.gate_shut n2)
    have t1 : (s.setOp .positioning).trc = s.trc := congrArg CaptureView.trc (s.view_setOp .positioning)
    have h2 : CaptureSafe ((s.setOp .positioning).setTrc { s.trc with valid := false }) :=
      h1.setTrc_same (by rw [t1]) (by rw [t1]) (by rw [t1]) (by rw [t1]) (by rw [t1]; rfl)
    simp only [State.act, State.actHome, State.answer]
    split
    · exact h2.setTrc_same rfl rfl rfl rfl rfl
    · exact h2.beginHoming g1
  · simp only [State.act, State.actMove, State.answer]
    split
    · exact h.takeMove _ (idle (fun o => by cases o <;> decide)) s.cap rfl rfl
    · exact h
  · exact h.of_view rfl
  · exact h.of_view rfl
  · simp only [State.act, State.actCalRun, State.answer]
    split
    · exact h
    · split
      · exact h
      · exact h.takeMove _ (idle (fun o => by cases o <;> decide)) _ rfl rfl
  · simp only [State.act, State.actCalLoad, State.answer]
    split
    · exact h
    · refine h.of_view ?_
      unfold Cap.loadTable
      split <;> rfl
  · simp only [State.act, State.actCalRead, State.answer]
    split <;> exact h
  · refine h.of_view ?_
    simp only [State.act, State.actCauseEnable, State.answer, State.enableCauses]
    split <;> rfl
  · refine h.of_view ?_
    simp only [State.act, State.actCauseClear, State.answer, State.clearCauses]
    split <;> rfl

theorem CaptureSafe.setLif (h : CaptureSafe s) (x : Lif) : CaptureSafe (s.setLif x) := h.of_view rfl

theorem CaptureSafe.judgeRecord (h : CaptureSafe s) (r : Record) :
    CaptureSafe (s.judgeRecord r).state := by
  rcases State.judgeRecord_cases s r with ⟨p, e⟩ | ⟨k, -, hk, -, e⟩ <;> rw [e]
  · exact h
  · exact h.act r.payload hk

theorem CaptureSafe.dispatch (h : CaptureSafe s) (r : Record) : CaptureSafe (s.dispatch r) := by
  have h1 := h.judgeRecord r
  unfold State.dispatch
  simp only []
  split
  · unfold State.freeSlot
    split
    · exact h1.setLif _
    · exact (h1.setLif _).setLif _
  · exact h1

theorem CaptureSafe.dispatchWaiting (h : CaptureSafe s) : CaptureSafe s.dispatchWaiting := by
  unfold State.dispatchWaiting
  repeat' split
  · exact h.dispatch _
  · exact h
  · exact h

theorem CaptureSafe.receiveGood (h : CaptureSafe s) (r : Record) : CaptureSafe (s.receiveGood r) := by
  unfold State.receiveGood
  simp only []
  split
  · exact (h.setLif _).raise _
  · exact ((h.setLif _).setLif _).dispatchWaiting

theorem CaptureSafe.chooseData (h : CaptureSafe s) : CaptureSafe s.chooseData := by
  unfold State.chooseData
  split
  · exact (((h.setLif _).setLif _).giveRoom).settle
  · split
    · rename_i e
      exact ((h.imagePath (ImagePath.takeImage e)).setLif _).settle
    · split
      · rename_i e
        exact ((h.of_view (State.view_takePreview e)).setLif _).settle
      · exact h

theorem CaptureSafe.chooseUnsolicited (h : CaptureSafe s) : CaptureSafe s.chooseUnsolicited := by
  unfold State.chooseUnsolicited
  split
  · split
    · exact (h.setLif _).setLif _
    · exact (h.setLif _).chooseData
  · exact h.chooseData

theorem CaptureSafe.arbitrate (h : CaptureSafe s) : CaptureSafe s.arbitrate := by
  unfold State.arbitrate
  split
  · exact h
  · split
    · exact ((h.setLif _).setLif _).dispatchWaiting
    · split
      · exact h
      · exact h.chooseUnsolicited

theorem CaptureSafe.finish (h : CaptureSafe s) : CaptureSafe s.finish := h.settle.arbitrate

theorem CaptureSafe.recordEnds (h : CaptureSafe s) : CaptureSafe s.recordEnds := by
  unfold State.recordEnds
  repeat' split
  · exact h
  · exact State.safe_softReset s
  · exact (h.setLif _).arbitrate

theorem CaptureSafe.linkError (h : CaptureSafe s) (e : LinkError) : CaptureSafe (s.linkError e) :=
  ((h.setLif _).raise _).arbitrate

theorem CaptureSafe.recordArrives (h : CaptureSafe s) (r : Record) : CaptureSafe (s.recordArrives r) :=
  (h.receiveGood r).arbitrate

theorem CaptureSafe.setFramer (h : CaptureSafe s) (f : Framer) : CaptureSafe (s.setFramer f) := h.setLif _

theorem CaptureSafe.takeByte (h : CaptureSafe s) (b : Byte) : CaptureSafe (s.takeByte b) := by
  unfold State.takeByte State.headerDone
  simp only []
  repeat' split
  all_goals first
    | exact h
    | exact h.setFramer _
    | exact h.linkError _
    | exact h.recordArrives _

theorem CaptureSafe.takeBytes (h : CaptureSafe s) (bs : List Byte) : CaptureSafe (s.takeBytes bs) := by
  induction bs generalizing s with
  | nil => exact h
  | cons b bs ih => exact ih (h.takeByte b)

theorem CaptureSafe.commandRow (h : CaptureSafe s) (k t : Byte) (p : List Byte) :
    CaptureSafe (s.commandRow k t p) := by
  unfold State.commandRow
  split
  · exact h.linkError _
  · exact h.recordArrives _

theorem CaptureSafe.holderLeaves (h : CaptureSafe s) : CaptureSafe s.holderLeaves := by
  unfold State.holderLeaves
  split
  · extract_lets p1 s1
    have v1 : s1.captureView = s.captureView := State.view_raise _ _
    have h1 : CaptureSafe s1 := h.of_view v1
    split
    · rename_i hr
      have o1 : s1.scn.op = s.scn.op := congrArg CaptureView.op v1
      exact h1.base.stopScan (by rw [o1]; exact State.scanRuns_op hr) _
    · exact h1
  · exact h

theorem CaptureSafe.warmupEnds (h : CaptureSafe s) : CaptureSafe s.warmupEnds := by
  unfold State.warmupEnds
  split
  · extract_lets c1 s1
    have h1 : CaptureSafe s1 := h.of_view rfl
    split
    · exact h1.releaseRunUp
    · split
      · rename_i hc
        have hc1 : s.cap.cal ≠ none := by
          intro e; rw [e] at hc; cases hc
        refine h1.setCap id id (fun _ => hc1) (fun _ => ?_)
        simpa [Cap.beginWhiteCapture, s1] using hc1
      · exact h1
  · exact h

theorem CaptureSafe.beginDarkCapture (h : CaptureSafe s)
    (hc : s.cap.cal.map (·.phase) = some .darkSettle) : CaptureSafe (s.setCap s.cap.beginDarkCapture) := by
  have hc1 : s.cap.cal ≠ none := by
    intro e; rw [e] at hc; cases hc
  refine h.setCap id id (fun _ => hc1) (fun _ => ?_)
  simpa [Cap.beginDarkCapture] using hc1

/-- A calibration line starts only in a calibration run, outside a scan. -/
theorem CaptureSafe.calTimerEnds (h : CaptureSafe s) : CaptureSafe s.calTimerEnds := by
  unfold State.calTimerEnds
  split
  · rename_i hm
    split
    · exact h.lateLine
    · have ho := h.calRun (h.calTimer hm)
      have hn : s.scn.op ≠ .scanning := by rcases ho with e | e <;> rw [e] <;> decide
      exact ⟨h.capacity, h.demand, h.gate, h.run, fun e => absurd e hn, h.empty, h.transport, h.ended,
        h.calRun, h.calTimer⟩
  · exact h

theorem CaptureSafe.transferEnds (h : CaptureSafe s) (x : AfeTransfer) (n : Option AfeByte) (d : Byte) :
    CaptureSafe (s.transferEnds x n d) := by
  unfold State.transferEnds
  extract_lets c1 s1 s2
  have h1 : CaptureSafe s1 := h.of_view rfl
  have h2 : CaptureSafe s2 := by
    simp only [s2]
    split
    · exact h1.raise _
    · exact h1
  split
  · refine CaptureSafe.arbitrate ?_
    unfold State.freeSlot
    split
    · exact h2.setLif _
    · exact (h2.setLif _).setLif _
  · exact h2.arbitrate

end rows

end Sys2Proof.Machine
end

