-- ==== Sys2Proof/Laws/Reply.lean ====
section
/-! SUPPORT. How a dispatched command leaves the device: the arbiter over a queue of replies, a record that
arrives at a ready link, and a judged record. -/

namespace Sys2Proof.Machine

section arbiter

variable {s u : State}

/-- While a record is being sent or LINK_HOLD is active, the arbiter does nothing (R175, R176). -/
theorem State.arbitrate_waits (h : s.arbiterWaits = true) : s.arbitrate = s := by
  unfold State.arbitrate
  exact if_pos h

/-- With nothing to choose, the arbiter does nothing (R175). -/
theorem State.arbitrate_rest (h : s.atRest) : s.arbitrate = s := by
  rcases h with h | ⟨hr, h⟩
  · exact State.arbitrate_waits h
  · unfold State.arbitrate
    split
    · rfl
    · rw [hr]
      simp only []
      rcases h with h | ⟨h1, h2, h3, h4⟩
      · rw [if_pos h]
      · split
        · rfl
        · unfold State.chooseUnsolicited State.chooseData
          rw [h1, h2, h3, h4]
          rfl

/-- With a reply queued and no command waiting, the arbiter moves at most one reply to the transmitter
(R175). -/
theorem State.arbitrate_reply (hs : s.slotWaits = false) (hr : s.lif.replies ≠ []) :
    ∃ (l : List Record) (x : Option Record),
      s.arbitrate = s.setLif { s.lif with replies := l, tx := x } ∧ x.toList ++ l = s.outgoing := by
  unfold State.arbitrate
  split
  · exact ⟨s.lif.replies, s.lif.tx, rfl, rfl⟩
  · rename_i hb
    have htx : s.lif.tx = none := by
      simp only [Bool.or_eq_true, not_or] at hb
      simpa using hb.1
    split
    · rename_i r rest e
      refine ⟨rest, some r, ?_, ?_⟩
      · unfold State.dispatchWaiting
        have h1 : ((s.setLif { s.lif with replies := rest }).send r).slotWaits = false := hs
        split
        · rw [h1]; rfl
        · rfl
      · unfold State.outgoing
        rw [htx, e]; rfl
    · rename_i e
      exact absurd e hr

end arbiter

section dispatch

variable {s u : State} {r : Record}

/-- At a ready link a good record is dispatched on arrival (R169, R170). -/
theorem State.recordArrives_ready (h : Ready s) : s.recordArrives r =
    ((s.setLif { s.lif with framer := .hunt, slot := some r }).dispatch r).arbitrate := by
  have h1 : s.lif.slot.isSome = false := by rw [h.slot]; rfl
  unfold State.recordArrives State.receiveGood State.dispatchWaiting
  simp only []
  rw [h1]
  have h2 : (s.setLif { s.lif with framer := .hunt, slot := some r }).slotWaits = true := by
    unfold State.slotWaits
    rw [State.setLif_lif, State.setLif_cap, h.noTransfer, h.noReset]
    rfl
  have h3 : decide (s.lif.replies.length < Config.replyCapacity) = true := decide_eq_true h.room
  show State.arbitrate (if ((s.setLif { s.lif with framer := .hunt, slot := some r }).slotWaits &&
    decide (s.lif.replies.length < Config.replyCapacity)) = true then _ else _) = _
  rw [h2, h3]
  rfl

/-- A command whose answer is the state `u` and the payload `p` leaves `u` and its reply on the way out. -/
theorem State.recordArrives_replied (h : Ready s) {p : List Byte}
    (hj : (s.setLif { s.lif with framer := .hunt, slot := some r }).judgeRecord r =
      ⟨u.setLif { u.lif with framer := .hunt, slot := some r }, some p⟩)
    (hp : u.lif.resetPending = false) : Replied u (s.recordArrives r) (replyTo r p) := by
  rw [State.recordArrives_ready h]
  unfold State.dispatch
  rw [hj]
  simp only []
  have hf : ((u.setLif { u.lif with framer := .hunt, slot := some r }).pushReply (replyTo r p)).freeSlot =
      u.setLif { u.lif with framer := .hunt, slot := none, replies := u.lif.replies ++ [replyTo r p] } := by
    unfold State.freeSlot
    rw [if_neg (by simpa [State.pushReply] using hp)]
    rfl
  rw [hf]
  obtain ⟨l, x, e, ho⟩ := State.arbitrate_reply
    (s := u.setLif { u.lif with framer := .hunt, slot := none, replies := u.lif.replies ++ [replyTo r p] })
    (by unfold State.slotWaits; rfl) (by simp)
  rw [e]
  refine ⟨rfl, ?_⟩
  show x.toList ++ l = _
  rw [ho]
  simp [State.outgoing]

/-- A command of a known kind, in a state that takes it, with its form in order, acts (R170, R179). -/
theorem State.judgeRecord_taken {k : Kind} (hk : kindOf r.kind = some k) (h1 : s.refusesNow k = false)
    (h2 : k.formOk r.payload = true) : s.judgeRecord r = s.act k r.payload := by
  unfold State.judgeRecord State.judge
  rw [hk]
  simp [h1, h2]

/-- A command in a state that does not take it is refused BUSY (R179). -/
theorem State.judgeRecord_busy {k : Kind} (hk : kindOf r.kind = some k) (h1 : s.refusesNow k = true) :
    s.judgeRecord r = s.answer (busyReply s.scn.op) := by
  unfold State.judgeRecord State.judge
  rw [hk]
  simp [h1]

/-- A command whose form is not in order is refused BAD_ARG (R179). -/
theorem State.judgeRecord_form {k : Kind} (hk : kindOf r.kind = some k) (h1 : s.refusesNow k = false)
    (h2 : k.formOk r.payload = false) : s.judgeRecord r = s.answer (k.formReply r.payload) := by
  unfold State.judgeRecord State.judge
  rw [hk]
  simp [h1, h2]

/-- A record of no command kind is answered UNKNOWN_KIND (R170). -/
theorem State.judgeRecord_unknown (hk : kindOf r.kind = none) :
    s.judgeRecord r = s.answer (unknownReply r.kind) := by
  unfold State.judgeRecord
  rw [hk]

/-- A command row whose record fits the receiver is that record's arrival. -/
theorem State.commandRow_fits (s : State) {k t : Byte} {p : List Byte}
    (h : p.length ≤ Config.receiveLimit) : s.commandRow k t p = s.recordArrives ⟨k, t, p⟩ := by
  unfold State.commandRow
  rw [if_neg (Nat.not_lt.mpr h)]

/-- A payload of the right form fits the receiver, but for a CAL_LOAD whose count is out of range. -/
theorem Kind.fits_of_formOk {k : Kind} {p : List Byte} (hk : k ≠ .calLoad) (h : k.formOk p = true) :
    p.length ≤ Config.receiveLimit := by
  simp only [Kind.formOk, Bool.and_eq_true, decide_eq_true_eq] at h
  rw [h.1]
  cases k <;> first | exact absurd rfl hk | simp [Kind.length, Config.receiveLimit]

end dispatch

section waiting

variable {s : State} {r : Record}

/-- The record in the slot is dispatched when it waits and the reply queue has room (R170). -/
theorem State.dispatchWaiting_takes (h : s.lif.slot = some r) (hw : s.slotWaits = true)
    (hr : s.lif.replies.length < Config.replyCapacity) : s.dispatchWaiting = s.dispatch r := by
  unfold State.dispatchWaiting
  rw [h]
  simp only [hw, Bool.true_and]
  exact if_pos (decide_eq_true hr)

/-- The record in the slot stays there while it does not wait or the reply queue is full (R170). -/
theorem State.dispatchWaiting_holds
    (h : s.slotWaits = false ∨ Config.replyCapacity ≤ s.lif.replies.length) : s.dispatchWaiting = s := by
  unfold State.dispatchWaiting
  split
  · refine if_neg ?_
    rcases h with h | h
    · simp [h]
    · simp [Nat.not_lt.mpr h]
  · rfl

/-- A free arbiter with a reply queued sends it, and its room lets a waiting command act (R170, R175). -/
theorem State.arbitrate_head {rest : List Record} (h1 : s.lif.tx = none) (h2 : s.pins.linkHold = false)
    (h3 : s.lif.replies = r :: rest) :
    s.arbitrate = (s.setLif { s.lif with replies := rest, tx := some r }).dispatchWaiting := by
  unfold State.arbitrate
  rw [if_neg (by simp [h1, h2]), h3]
  rfl

/-- A judged record leaves the reply queue and the transmitter alone (R171). -/
theorem State.judgeRecord_lif (s : State) (r : Record) :
    (s.judgeRecord r).state.lif.replies = s.lif.replies ∧
      (s.judgeRecord r).state.lif.tx = s.lif.tx := by
  rcases State.judgeRecord_cases s r with ⟨p, h⟩ | ⟨k, -, -, -, h⟩ <;> rw [h]
  · exact ⟨rfl, rfl⟩
  · by_cases hk : (s.act k r.payload).reply = none
    · rcases State.act_noReply hk with rfl | rfl <;> exact ⟨rfl, rfl⟩
    · have := State.front_act s r.payload hk
      exact ⟨congrArg Front.replies this, congrArg Front.tx this⟩

/-- A dispatch leaves the transmitter alone. -/
theorem State.dispatch_tx (s : State) (r : Record) : (s.dispatch r).lif.tx = s.lif.tx := by
  unfold State.dispatch
  simp only []
  split
  · unfold State.freeSlot
    split
    · exact (State.judgeRecord_lif s r).2
    · exact (State.judgeRecord_lif s r).2
  · exact (State.judgeRecord_lif s r).2

/-- So does the dispatch of a waiting record. -/
theorem State.dispatchWaiting_tx (s : State) : s.dispatchWaiting.lif.tx = s.lif.tx := by
  unfold State.dispatchWaiting
  split
  · split
    · exact State.dispatch_tx s _
    · rfl
  · rfl

/-- The record of an IMAGE segment follows from the output engine, the frames, the ring and the setup
alone (R118). -/
theorem State.takeImage_record {t : State} (h1 : t.coe = s.coe) (h2 : t.frd = s.frd) (h3 : t.rng = s.rng)
    (h4 : t.setup = s.setup) : t.takeImage.map (·.1) = s.takeImage.map (·.1) := by
  unfold State.takeImage State.ringLine
  simp only []
  rw [h1, h2, h3, h4]
  repeat' split
  all_goals rfl

/-- The record of a PREVIEW segment follows from the reducer alone (R124). -/
theorem State.takePreview_record {t : State} (h : t.coe = s.coe) :
    t.takePreview.map (·.1) = s.takePreview.map (·.1) := by
  unfold State.takePreview
  simp only []
  rw [h]
  repeat' split
  all_goals rfl

/-- What the arbiter begins to send below the NOTICE: a report, an IMAGE record or a PREVIEW record
(R175). -/
theorem State.chooseData_tx (h : s.lif.tx = none) : s.chooseData.lif.tx =
    (match s.lif.reports with
    | x :: _ => some x
    | [] => (s.takeImage.map (·.1)).or (s.takePreview.map (·.1))) := by
  have hs : ∀ t : State, t.settle.lif.tx = t.lif.tx := fun t => congrArg Front.tx (State.front_settle t)
  have hg : ∀ t : State, t.giveRoom.lif.tx = t.lif.tx := fun t => congrArg Front.tx (State.front_giveRoom t)
  unfold State.chooseData
  cases s.lif.reports with
  | cons x rest => simp only [hs, hg]; rfl
  | nil =>
    simp only []
    cases s.takeImage with
    | some v => simp only [hs]; rfl
    | none =>
      cases s.takePreview with
      | some v => simp only [hs]; rfl
      | none => exact h

end waiting

end Sys2Proof.Machine
end

