-- ==== Sys2Proof/Laws/Settled.lean ====
section
/-! SUPPORT. A quiet device stays quiet: what the reactions of a row and the arbiter read, and that a row
which leaves all of it alone is over at once. -/

namespace Sys2Proof.Machine

/-! ## What the reactions read -/

/-- What `settleStep` reads besides the operation state and the carriage. -/
structure Reactive where
  coe : Coe
  frd : Frd
  rng : Rng
  dfd : Dfd
  setup : Setup
  markers : List Marker
  firstHeld : Nat
  due : List ScnReport
  waitList : List Producer
  report : Bool

/-- The part of a state that `settleStep` reads. -/
def State.reactive (s : State) : Reactive :=
  ⟨s.coe, s.frd, s.rng, s.dfd, s.scn.setup, s.scn.markers, s.scn.firstHeld, s.scn.due, s.lif.waitList,
    s.cap.report.isSome⟩

section reactive

variable {s t : State}

theorem State.coeAdvance_none (hc : t.coe = s.coe) (hf : t.frd = s.frd) (hr : t.rng = s.rng)
    (hd : t.dfd = s.dfd) (hu : t.setup = s.setup) (hs : s.coeAdvance = none) : t.coeAdvance = none := by
  unfold State.coeAdvance at *
  unfold State.rowEligible State.lineFinal State.ringLine at *
  rw [hc, hf, hr, hd, hu]
  repeat' split at hs
  all_goals first | rfl | (simp [*]; done) | cases hs

/-- No marker is newly reached where the first one not yet reached, if there is one, is not (R162). -/
theorem State.testMarker_none_iff : s.testMarker = none ↔ reachNext s.scn.firstHeld s.scn.markers = none := by
  unfold State.testMarker
  split
  · rename_i ms h
    simp [h]
  · rename_i h
    simp [h]

theorem State.testMarker_none (hm : t.scn.markers = s.scn.markers)
    (hh : t.scn.firstHeld = s.scn.firstHeld) (hs : s.testMarker = none) : t.testMarker = none := by
  rw [State.testMarker_none_iff] at hs ⊢
  rw [hm, hh]
  exact hs

/-- Markers that are all reached are tested no more. -/
theorem reachNext_reached {n : Nat} {l : List Marker} (h : ∀ m ∈ l, m.reached = true) :
    reachNext n l = none := by
  induction l with
  | nil => rfl
  | cons m ms ih =>
    unfold reachNext
    rw [if_pos (h m List.mem_cons_self), ih fun x hx => h x (List.mem_cons_of_mem m hx)]
    rfl

/-- A marker joins a queue in which none is newly reached: it is tested where all before it are reached
(R161, R162). -/
theorem reachNext_append {n : Nat} {l : List Marker} (h : reachNext n l = none) (m : Marker) :
    reachNext n (l ++ [m]) =
      if l.all (·.reached) && !m.reached && m.isReached n then some (l ++ [{ m with reached := true }])
      else none := by
  induction l with
  | nil =>
    simp only [List.nil_append, reachNext, List.all_nil, Bool.true_and]
    cases m.reached <;> cases m.isReached n <;> rfl
  | cons x xs ih =>
    simp only [List.cons_append]
    unfold reachNext at h ⊢
    cases hx : x.reached with
    | true =>
      simp only [hx, if_true, Option.map_eq_none_iff] at h ⊢
      rw [ih h]
      simp only [List.all_cons, hx, Bool.true_and]
      split <;> rfl
    | false =>
      simp only [hx, List.all_cons, Bool.false_and, Bool.false_eq_true, if_false] at h ⊢
      split at h
      · cases h
      · rename_i hr
        rw [if_neg hr]

theorem State.hasReport_eq (hc : t.coe = s.coe) (hf : t.frd = s.frd) (hd : t.scn.due = s.scn.due)
    (hr : t.cap.report.isSome = s.cap.report.isSome) : t.hasReport = s.hasReport := by
  funext p
  cases p <;> simp [State.hasReport, hc, hf, hd, hr]

theorem State.offering_eq (hw : t.lif.waitList = s.lif.waitList) (hh : t.hasReport = s.hasReport) :
    t.offering = s.offering := by
  unfold State.offering
  rw [hw, hh]

/-- What it takes for nothing to be left to react. -/
theorem State.settleStep_none_iff : s.settleStep = none ↔
    s.coeAdvance = none ∧ s.testMarker = none ∧ s.drainCheck = none ∧ s.offering = none ∧
      s.stoppingEnds = false := by
  unfold State.settleStep
  constructor
  · intro h
    repeat' split at h
    all_goals try cases h
    rename_i h1 _ h2 _ h3 _ h4 h5
    exact ⟨h1, h2, h3, h4, by simpa using h5⟩
  · rintro ⟨h1, h2, h3, h4, h5⟩
    simp [h1, h2, h3, h4, h5]

/-- A plain operation state settles no drain and no stop (R154, R160). -/
theorem State.plain_settles (h : s.scn.op.plain = true) :
    s.drainCheck = none ∧ s.stoppingEnds = false := by
  constructor
  · unfold State.drainCheck
    rw [if_neg]
    rintro ⟨h1, -⟩
    rw [h1] at h
    cases h
  · unfold State.stoppingEnds
    have h1 : s.scn.op ≠ .stopping := by
      intro h1
      rw [h1] at h
      cases h
    simp [h1]

/-- A state in which nothing waits to react goes on so while what the reactions read stays and the
operation state is plain. -/
theorem State.settled_of_reactive (hs : s.settleStep = none) (h : t.reactive = s.reactive)
    (hp : t.scn.op.plain = true) : t.settleStep = none := by
  obtain ⟨h1, h2, -, h4, -⟩ := State.settleStep_none_iff.mp hs
  obtain ⟨h3, h5⟩ := State.plain_settles hp
  simp only [State.reactive, Reactive.mk.injEq] at h
  obtain ⟨hc, hf, hr, hd, hu, hm, hh, he, hw, hq⟩ := h
  exact State.settleStep_none_iff.mpr
    ⟨State.coeAdvance_none hc hf hr hd hu h1, State.testMarker_none hm hh h2, h3,
      (State.offering_eq hw (State.hasReport_eq hc hf he hq)).trans h4, h5⟩

/-- No drain condition is newly met while the drain and what its conditions read stay (R154). -/
theorem State.drainCheck_of_drainNow (ho : t.scn.op = s.scn.op) (he : t.scn.endReason = s.scn.endReason)
    (hd : t.scn.drain = s.scn.drain) (hn : t.drainNow = s.drainNow) (h : s.drainCheck = none) :
    t.drainCheck = none := by
  unfold State.drainCheck at h ⊢
  simp only [ho, he, hd, hn] at h ⊢
  split at h
  · split at h
    · rename_i ha hb
      rw [if_pos ha, if_pos hb]
    · split at h <;> cases h
  · rename_i ha
    rw [if_neg ha]

/-- STOPPING goes on while what ends it stays (R160). -/
theorem State.stoppingEnds_of_same (ho : t.scn.op = s.scn.op)
    (hd : t.scn.due.contains .scanEnd = s.scn.due.contains .scanEnd) (hr : t.cap.report.isNone = s.cap.report.isNone)
    (ht : t.trc.standing = s.trc.standing) : t.stoppingEnds = s.stoppingEnds := by
  unfold State.stoppingEnds
  rw [ho, hd, hr, ht]

/-- The same in any operation state, while the Scan Controller's part and the carriage's standing stay. -/
theorem State.settled_of_still (hs : s.settleStep = none) (h : t.reactive = s.reactive) (hc : t.scn = s.scn)
    (ht : t.trc.standing = s.trc.standing) : t.settleStep = none := by
  obtain ⟨h1, h2, h3, h4, h5⟩ := State.settleStep_none_iff.mp hs
  simp only [State.reactive, Reactive.mk.injEq] at h
  obtain ⟨hco, hf, hr, hd, hu, hm, hh, he, hw, hq⟩ := h
  have hn : t.drainNow = s.drainNow := by simp [State.drainNow, hc, hr, hf, hd, hco, ht]
  refine State.settleStep_none_iff.mpr ⟨State.coeAdvance_none hco hf hr hd hu h1,
    State.testMarker_none hm hh h2, State.drainCheck_of_drainNow (by rw [hc]) (by rw [hc]) (by rw [hc]) hn h3,
    (State.offering_eq hw (State.hasReport_eq hco hf he hq)).trans h4, ?_⟩
  refine (State.stoppingEnds_of_same (by rw [hc]) (by rw [hc]) ?_ ht).trans h5
  rw [← Option.not_isSome, hq, Option.not_isSome]

/-- One reaction and no more. -/
theorem State.settle_one (h : s.settleStep = some t) (ht : t.settleStep = none) : s.settle = t := by
  simp only [State.settle, State.settleN, h, ht]

/-- Two reactions and no more. -/
theorem State.settle_two {u : State} (h : s.settleStep = some t) (ht : t.settleStep = some u)
    (hu : u.settleStep = none) : s.settle = u := by
  simp only [State.settle, State.settleN, h, ht, hu]

/-- While the report queue has room and no producer waits, a settled device has no report due (R173). -/
theorem State.noReport (hs : s.settleStep = none) (ho : s.reportsOpen = true) (p : Producer) :
    s.hasReport p = false := by
  have h4 := (State.settleStep_none_iff.mp hs).2.2.2.1
  have hw : s.lif.waitList = [] := by
    simp only [State.reportsOpen, Bool.and_eq_true, decide_eq_true_eq] at ho
    exact ho.2
  unfold State.offering at h4
  rw [List.find?_eq_none, hw] at h4
  have := h4 p (by cases p <;> simp [producers])
  simpa using this

/-- A report of the Scan Controller alone is due, and the queue takes it at once: it is placed, and that is
all (R163, R173). -/
theorem State.settleStep_scn (h1 : t.coeAdvance = none) (h2 : t.testMarker = none) (h3 : t.drainCheck = none)
    (hp : ∀ p, p ≠ .scn → t.hasReport p = false) (hd : t.scn.due ≠ []) (ho : t.reportsOpen = true) :
    t.settleStep = some t.placeScn := by
  have hq : t.hasReport .scn = true := by
    show (!t.scn.due.isEmpty) = true
    cases h : t.scn.due with
    | nil => exact absurd h hd
    | cons => rfl
  have ho' : t.lif.reports.length < Config.reportCapacity ∧ t.lif.waitList = [] := by
    simpa only [State.reportsOpen, Bool.and_eq_true, decide_eq_true_eq] using ho
  have hf : t.offering = some .scn := by
    unfold State.offering
    rw [ho'.2]
    simp [producers, hp, hq]
  unfold State.settleStep
  rw [h1, h2, h3, hf]
  simp only [State.offer, State.offerBy]
  rw [if_pos ho']
  rfl

/-- CAL_DONE is due and the queue takes it at once: it is placed (R12, R13, R173). -/
theorem State.settleStep_cal (h1 : t.coeAdvance = none) (h2 : t.testMarker = none) (h3 : t.drainCheck = none)
    (hr : t.cap.report.isSome = true) (ho : t.reportsOpen = true) : t.settleStep = some t.placeCal := by
  have ho' : t.lif.reports.length < Config.reportCapacity ∧ t.lif.waitList = [] := by
    simpa only [State.reportsOpen, Bool.and_eq_true, decide_eq_true_eq] using ho
  have hf : t.offering = some .cap := by
    unfold State.offering
    rw [ho'.2]
    simp [producers, State.hasReport, hr]
  unfold State.settleStep
  rw [h1, h2, h3, hf]
  simp only [State.offer, State.offerBy]
  rw [if_pos ho']
  rfl

/-- Nothing is due but the end of STOPPING (R160). -/
theorem State.settleStep_stops (h1 : t.coeAdvance = none) (h2 : t.testMarker = none) (h3 : t.drainCheck = none)
    (h4 : t.offering = none) (h5 : t.stoppingEnds = true) : t.settleStep = some (t.setOp .idle) := by
  unfold State.settleStep
  rw [h1, h2, h3, h4]
  exact if_pos h5

/-- Outside a drain whose SCAN_END is not due, no drain condition is tested (R154). -/
theorem State.drainCheck_none (h : t.scn.op ≠ .draining ∨ t.scn.endReason ≠ none) : t.drainCheck = none := by
  unfold State.drainCheck
  refine if_neg ?_
  rintro ⟨a, b⟩
  rcases h with h | h
  · exact h a
  · exact h b

end reactive

/-! ## What the arbiter reads -/

/-- What `atRest` reads. -/
structure Resting where
  coe : Coe
  frd : Frd
  rng : Rng
  setup : Setup
  linkHold : Bool
  tx : Option Record
  replies : List Record
  resetPending : Bool
  noticeDue : Bool
  reports : List Record

/-- The part of a state that `atRest` reads. -/
def State.resting (s : State) : Resting :=
  ⟨s.coe, s.frd, s.rng, s.scn.setup, s.pins.linkHold, s.lif.tx, s.lif.replies, s.lif.resetPending,
    s.lif.noticeDue, s.lif.reports⟩

section resting

variable {s t : State}

theorem State.takeImage_none (h : t.resting = s.resting) (hs : s.takeImage = none) :
    t.takeImage = none := by
  simp only [State.resting, Resting.mk.injEq] at h
  obtain ⟨hc, hf, hr, hu, -⟩ := h
  have hu' : t.setup = s.setup := hu
  unfold State.takeImage at *
  unfold State.ringLine at *
  simp only [] at hs ⊢
  rw [hc, hf, hr]
  repeat' split at hs
  all_goals first | rfl | (simp [*]; done) | cases hs

theorem State.takePreview_none (h : t.resting = s.resting) (hs : s.takePreview = none) :
    t.takePreview = none := by
  simp only [State.resting, Resting.mk.injEq] at h
  obtain ⟨hc, -⟩ := h
  unfold State.takePreview at *
  simp only [] at hs ⊢
  rw [hc]
  repeat' split at hs
  all_goals first | rfl | (simp [*]; done) | cases hs

/-- An arbiter at rest stays at rest while what it reads stays. -/
theorem State.atRest_of_resting (hs : s.atRest) (h : t.resting = s.resting) : t.atRest := by
  have h' := h
  simp only [State.resting, Resting.mk.injEq] at h
  obtain ⟨-, -, -, -, hl, ht, hr, hp, hn, hq⟩ := h
  rcases hs with hs | ⟨h1, h2⟩
  · left
    simpa [State.arbiterWaits, hl, ht] using hs
  · right
    refine ⟨by rw [hr]; exact h1, ?_⟩
    rcases h2 with h2 | ⟨h2, h3, h4, h5⟩
    · left; rw [hp]; exact h2
    · right
      exact ⟨by rw [hn]; exact h2, by rw [hq]; exact h3, State.takeImage_none h' h4,
        State.takePreview_none h' h5⟩

/-- A quiet state finishes at once. -/
theorem State.finish_quiet (h : Quiet s) : s.finish = s := by
  unfold State.finish
  rw [State.settle_of_settled h.settled, State.arbitrate_rest h.rest]

/-- From a quiet state, a row that leaves alone what the reactions and the arbiter read, and that ends in a
plain operation state, is over at once. -/
theorem State.finish_of_quiet (hq : Quiet s) (h1 : t.reactive = s.reactive) (h2 : t.resting = s.resting)
    (hp : t.scn.op.plain = true) : t.finish = t :=
  State.finish_quiet ⟨State.settled_of_reactive hq.settled h1 hp, State.atRest_of_resting hq.rest h2⟩

/-- The same in any operation state, while the Scan Controller's part and the carriage's standing stay. -/
theorem State.finish_of_still (hq : Quiet s) (h1 : t.reactive = s.reactive) (h2 : t.resting = s.resting)
    (hc : t.scn = s.scn) (ht : t.trc.standing = s.trc.standing) : t.finish = t :=
  State.finish_quiet ⟨State.settled_of_still hq.settled h1 hc ht, State.atRest_of_resting hq.rest h2⟩

/-- The same where a cause was raised: what is left is the arbiter's choice. -/
theorem State.finish_of_settled (hq : s.settleStep = none) (h1 : t.reactive = s.reactive)
    (hp : t.scn.op.plain = true) : t.finish = t.arbitrate := by
  unfold State.finish
  rw [State.settle_of_settled (State.settled_of_reactive hq h1 hp)]

end resting

end Sys2Proof.Machine
end

