-- ==== Sys2Proof/Laws/Forms.lean ====
section
/-! SUPPORT. Shared operations in closed form: what each changes, with no case split over states. -/

namespace Sys2Proof.Machine

/-- Two states with equal blocks are equal. -/
theorem State.eq_of_blocks {s t : State} (cap : s.cap = t.cap) (rng : s.rng = t.rng) (frd : s.frd = t.frd)
    (dfd : s.dfd = t.dfd) (rpe : s.rpe = t.rpe) (coe : s.coe = t.coe) (trc : s.trc = t.trc)
    (scn : s.scn = t.scn) (lif : s.lif = t.lif) (ntu : s.ntu = t.ntu) (pins : s.pins = t.pins)
    (pending : s.pending = t.pending) : s = t := by
  cases s
  cases t
  simp_all

section forms

variable (s : State)

/-- A set that has a cause is unchanged by adding it. -/
theorem CauseSet.or_of_has {x : CauseSet} {c : Cause} (h : x.has c = true) : x ||| c.bit = x := by
  revert h
  unfold CauseSet.has
  cases c <;> (simp only [Cause.bit, Cause.id]; revert x; decide)

/-- Whether a raise of a cause is a gain (R190). -/
def Ntu.gains (n : Ntu) (c : Cause) : Bool := !n.pending.has c && n.enabled.has c

/-- Raising a cause adds it to the pending set, and a gain marks the notice slot due (R188, R190). -/
theorem State.raise_form (c : Cause) : s.raise c =
    (s.setNtu { s.ntu with pending := s.ntu.pending ||| c.bit }).setLif { s.lif with
      noticeDue := s.lif.noticeDue || s.ntu.gains c } := by
  unfold State.raise Ntu.gains
  cases h : s.ntu.pending.has c
  · cases h2 : s.ntu.enabled.has c
    · simp; rfl
    · simp; rfl
  · rw [CauseSet.or_of_has h]
    simp; rfl

/-- The evaluation of the HALTED condition (R145, R189). -/
theorem State.evalHalted_form : s.evalHalted =
    (s.setNtu { s.ntu with
      haltedCond := s.haltedNow
      pending := s.ntu.pending ||| (if s.haltedNow && !s.ntu.haltedCond then Cause.halted.bit else 0#9)
      }).setLif { s.lif with
        noticeDue := s.lif.noticeDue || (s.haltedNow && !s.ntu.haltedCond && s.ntu.gains .halted) } := by
  unfold State.evalHalted
  cases h : (s.haltedNow && !s.ntu.haltedCond)
  · simp; rfl
  · simp only [State.raise_form]
    simp; rfl

/-- Entering an operation state other than SCANNING: HALTED's condition ends (R145). -/
theorem State.setOp_form {op : OpState} (h : op ≠ .scanning) : s.setOp op =
    (s.setScn { s.scn with op := op }).setNtu { s.ntu with haltedCond := false } := by
  unfold State.setOp State.evalHalted State.haltedNow
  simp [h]

/-- CAL_DONE of a run that has reached its Report phase is placed: the tables and the flag are written, the run is
over, and the device is IDLE (R12, R173). -/
theorem State.placeCal_written {run : CalRun} {r : CalReport} (hc : s.cap.cal = some run)
    (hr : s.cap.report = some r) (ho : r.outcome = .passed ∨ r.outcome = .failed) :
    s.placeCal = (((s.setLif { s.lif with reports := s.lif.reports ++ [r.record] }).setCap { s.cap with
      dark := writeTables s.cap.dark run.darkAvg
      gain := writeTables s.cap.gain run.gains
      valid := decide (r.outcome = .passed)
      calTimer := false
      cal := none
      report := none }).setScn { s.scn with op := .idle }).setNtu { s.ntu with haltedCond := false } := by
  unfold State.placeCal
  rw [hr]
  dsimp only
  rw [hc]
  dsimp only
  rw [if_pos ho, State.setOp_form _ (by decide)]
  rfl

/-- A demand posted with scan transport off is kept, and that is all (R135, R145). -/
theorem State.post_off {src : Source} {g : Grade} (h : s.trc.scanOn = false) :
    s.post src g = (s.setTrc (s.trc.keep src g)).evalHalted := by
  unfold State.post
  simp only []
  split
  · rfl
  · unfold State.gradeChanged
    refine if_pos ?_
    rw [State.evalHalted_form]
    cases src <;> simp [Trc.keep, h]

end forms

end Sys2Proof.Machine
end

