-- ==== Sys2Proof/Laws/Tables.lean ====
section
/-! SUPPORT. The calibration tables: every write keeps the canonical form, a read gives what was last
written to its column, and other columns keep their values. -/

namespace Sys2Proof.Machine

theorem Table.wfFrom_mono {a b : Nat} {t : Table} (hab : a ≤ b) (h : wfFrom b t = true) :
    wfFrom a t = true := by
  cases t with
  | nil => rfl
  | cons e rest =>
    obtain ⟨c, v⟩ := e
    simp only [wfFrom, Bool.and_eq_true, decide_eq_true_eq] at h ⊢
    exact ⟨⟨hab.trans h.1.1, h.1.2⟩, h.2⟩

/-- A column below the least listed one reads 0. -/
theorem Table.read_below {t : Table} {a x : Nat} (h : wfFrom a t = true) (hx : x < a) : read t x = 0 := by
  cases t with
  | nil => rfl
  | cons e rest =>
    obtain ⟨c, v⟩ := e
    simp only [wfFrom, Bool.and_eq_true, decide_eq_true_eq] at h
    have hc : c ≠ x := by omega
    have hxc : x < c := by omega
    simp [read, hc, hxc]

theorem Table.wfFrom_link {a x : Nat} {v : Half} {t : Table} (hx : a ≤ x) (h : wfFrom (x + 1) t = true) :
    wfFrom a (link x v t) = true := by
  unfold link
  split
  · exact wfFrom_mono (by omega) h
  · rename_i hv
    simp only [wfFrom, Bool.and_eq_true, decide_eq_true_eq]
    exact ⟨⟨hx, hv⟩, h⟩

theorem Table.wfFrom_write {a : Nat} {t : Table} (h : wfFrom a t = true) (x : Nat) (hx : a ≤ x) (v : Half) :
    wfFrom a (write t x v) = true := by
  induction t generalizing a with
  | nil => exact wfFrom_link hx rfl
  | cons e rest ih =>
    obtain ⟨c, w⟩ := e
    simp only [wfFrom, Bool.and_eq_true, decide_eq_true_eq] at h
    unfold write
    split
    · rename_i hcx
      simp only [wfFrom, Bool.and_eq_true, decide_eq_true_eq]
      exact ⟨h.1, ih h.2 (by omega)⟩
    · split
      · rename_i hcx
        subst hcx
        exact wfFrom_link hx h.2
      · rename_i h1 h2
        refine wfFrom_link hx ?_
        simp only [wfFrom, Bool.and_eq_true, decide_eq_true_eq]
        exact ⟨⟨by omega, h.1.2⟩, h.2⟩

/-- A write keeps the canonical form. -/
theorem Table.wf_write {t : Table} (h : wf t = true) (x : Nat) (v : Half) : wf (write t x v) = true :=
  wfFrom_write h x (Nat.zero_le x) v

/-- A segment keeps the canonical form. -/
theorem Table.wf_writeFrom {t : Table} (h : wf t = true) (first : Nat) (vs : List Half) :
    wf (writeFrom t first vs) = true := by
  induction vs generalizing t first with
  | nil => exact h
  | cons v vs ih => exact ih (wf_write h first v) (first + 1)

theorem Table.read_link {a x y : Nat} {v : Half} {t : Table} (h : wfFrom a t = true) (hx : x < a) :
    read (link x v t) y = if x = y then v else read t y := by
  unfold link
  split
  · rename_i hv
    split
    · rename_i hxy
      subst hxy
      rw [hv, read_below h hx]
    · rfl
  · simp only [read]
    split
    · rfl
    · split
      · rename_i hxy hyx
        exact (read_below h (by omega)).symm
      · rfl

theorem Table.read_write_from {a : Nat} {t : Table} (h : wfFrom a t = true) (x : Nat) (v : Half) (y : Nat) :
    read (write t x v) y = if x = y then v else read t y := by
  induction t generalizing a with
  | nil => exact read_link (a := x + 1) rfl (by omega)
  | cons e rest ih =>
    obtain ⟨c, w⟩ := e
    simp only [wfFrom, Bool.and_eq_true, decide_eq_true_eq] at h
    unfold write
    split
    · rename_i hcx
      simp only [read, ih h.2]
      split
      · rename_i hcy
        rw [if_neg (by omega)]
      · split
        · rename_i hyc
          rw [if_neg (by omega)]
        · rfl
    · split
      · rename_i hcx
        subst hcx
        rw [read_link h.2 (by omega)]
        split
        · rfl
        · rename_i hne
          simp only [read, if_neg hne]
          split
          · rename_i hlt
            exact read_below h.2 (by omega)
          · rfl
      · rename_i h1 h2
        exact read_link (a := c) (by
          simp only [wfFrom, Bool.and_eq_true, decide_eq_true_eq]
          exact ⟨⟨Nat.le_refl c, h.1.2⟩, h.2⟩) (by omega)

/-- A read after a write: the value written in the column written, the old value in any other (R14). -/
theorem Table.read_write {t : Table} (h : wf t = true) (x : Nat) (v : Half) (y : Nat) :
    read (write t x v) y = if x = y then v else read t y := read_write_from h x v y

/-- A read after a segment: the segment's value inside it, the old value outside it (R14). -/
theorem Table.read_writeFrom {t : Table} (h : wf t = true) (first : Nat) (vs : List Half) (y : Nat) :
    read (writeFrom t first vs) y =
      if first ≤ y then (vs[y - first]?).getD (read t y) else read t y := by
  induction vs generalizing t first with
  | nil => simp [writeFrom]
  | cons v vs ih =>
    rw [writeFrom, ih (wf_write h first v), read_write h]
    by_cases h1 : first + 1 ≤ y
    · have h2 : first ≤ y := by omega
      have h3 : y - first = (y - (first + 1)) + 1 := by omega
      have h4 : first ≠ y := by omega
      simp [h1, h2, h3, h4]
    · by_cases h2 : first = y
      · subst h2; simp
      · have h3 : ¬ first ≤ y := by omega
        simp [h1, h2, h3]

/-- The values read from consecutive columns. -/
theorem Table.getElem_readFrom (t : Table) (first n i : Nat) :
    (Table.readFrom t first n)[i]? = if i < n then some (Table.read t (first + i)) else none := by
  induction n generalizing first i with
  | zero => simp [Table.readFrom]
  | succ n ih =>
    cases i with
    | zero => simp [Table.readFrom]
    | succ i =>
      simp only [Table.readFrom, List.getElem?_cons_succ, ih, Nat.add_lt_add_iff_right]
      congr 3
      omega

end Sys2Proof.Machine
end

