-- ==== Sys2Proof/Laws/Limits.lean ====
section
/-! SUPPORT. What keeps the queues within their capacities, the tables canonical and the setup in range:
one lemma per operation. -/

namespace Sys2Proof.Machine

/-! ## Updates of one block -/

section updates

variable {s t : State}

/-- What the limits speak of lies in `outer`. -/
theorem WithinLimits.of_outer (h : WithinLimits s) (e : t.outer = s.outer) : WithinLimits t := by
  have hl : t.lif.outer = s.lif.outer := congrArg Outer.lif e
  have hr : t.lif.replies = s.lif.replies := congrArg LifOuter.replies hl
  have hsl : t.lif.slot = s.lif.slot := congrArg LifOuter.slot hl
  have hc : t.cap.outer = s.cap.outer := congrArg Outer.cap e
  have ha : t.cap.afe = s.cap.afe := congrArg CapOuter.afe hc
  have hd : t.cap.dark = s.cap.dark := congrArg CapOuter.dark hc
  have hg : t.cap.gain = s.cap.gain := congrArg CapOuter.gain hc
  have hs : t.scn.outer = s.scn.outer := congrArg Outer.scn e
  have hrep : t.lif.reports = s.lif.reports := congrArg LifOuter.reports hl
  have hw : t.lif.waitList = s.lif.waitList := congrArg LifOuter.waitList hl
  have hm : t.scn.markers = s.scn.markers := congrArg ScnOuter.markers hs
  have hro : t.coe.rows = s.coe.rows := congrArg Outer.rows e
  have hse : t.scn.setup = s.scn.setup := congrArg ScnOuter.setup hs
  refine ⟨hr ▸ h.replies, hrep ▸ h.reports, hw ▸ h.waitList, hm ▸ h.markers, hro ▸ h.rows, ?_, ?_,
    hse ▸ h.setup⟩
  · rw [ha, hsl, hr]; exact h.transfer
  · have := h.tables
    simpa only [Cap.tablesWf, hd, hg] using this

theorem WithinLimits.setCap (h : WithinLimits s) {x : Cap} (hw : x.tablesWf = true)
    (ha : x.afe = s.cap.afe) : WithinLimits (s.setCap x) :=
  ⟨h.replies, h.reports, h.waitList, h.markers, h.rows,
    by rw [State.setCap_cap, ha]; exact h.transfer, hw, h.setup⟩

theorem WithinLimits.setScn (h : WithinLimits s) {x : Scn}
    (hm : x.markers.length ≤ Config.markerCapacity) (hs : SetupInRange x.setup) :
    WithinLimits (s.setScn x) :=
  ⟨h.replies, h.reports, h.waitList, hm, h.rows, h.transfer, h.tables, hs⟩

theorem WithinLimits.setCoe (h : WithinLimits s) {x : Coe}
    (hr : x.rows.length ≤ Config.previewCapacity) : WithinLimits (s.setCoe x) :=
  ⟨h.replies, h.reports, h.waitList, h.markers, hr, h.transfer, h.tables, h.setup⟩

theorem WithinLimits.setTrc (h : WithinLimits s) (x : Trc) : WithinLimits (s.setTrc x) :=
  h.of_outer rfl

theorem WithinLimits.setFrd (h : WithinLimits s) (x : Frd) : WithinLimits (s.setFrd x) :=
  h.of_outer rfl

theorem WithinLimits.setPins (h : WithinLimits s) (x : Pins) : WithinLimits (s.setPins x) :=
  ⟨h.replies, h.reports, h.waitList, h.markers, h.rows, h.transfer, h.tables, h.setup⟩

theorem WithinLimits.setPending (h : WithinLimits s) (x : List Instr) : WithinLimits (s.setPending x) :=
  ⟨h.replies, h.reports, h.waitList, h.markers, h.rows, h.transfer, h.tables, h.setup⟩

/-- A change of the link that keeps slot and replies. -/
theorem WithinLimits.setLif (h : WithinLimits s) {x : Lif} (hr : x.replies = s.lif.replies)
    (hs : x.slot = s.lif.slot) (hp : x.reports.length ≤ Config.reportCapacity)
    (hw : x.waitList.Nodup) : WithinLimits (s.setLif x) :=
  ⟨hr ▸ h.replies, hp, hw, h.markers, h.rows,
    by rw [State.setLif_lif, State.setLif_cap, hr, hs]; exact h.transfer, h.tables, h.setup⟩

end updates

/-! ## Flags, output and preview -/

section image

variable {s t : State}

theorem WithinLimits.raise (h : WithinLimits s) (c : Cause) : WithinLimits (s.raise c) :=
  h.of_outer (State.outer_raise s c)

theorem WithinLimits.setOp (h : WithinLimits s) (op : OpState) : WithinLimits (s.setOp op) :=
  h.of_outer (State.outer_setOp s op)

theorem WithinLimits.clearCauses (h : WithinLimits s) (x : CauseSet) : WithinLimits (s.clearCauses x) := by
  refine h.of_outer ?_
  unfold State.clearCauses; simp only []; split <;> rfl

theorem WithinLimits.enableCauses (h : WithinLimits s) (x : CauseSet) :
    WithinLimits (s.enableCauses x) := by
  refine h.of_outer ?_
  unfold State.enableCauses; simp only []; split <;> rfl

theorem WithinLimits.completePreviewRow (h : WithinLimits s) : WithinLimits s.completePreviewRow := by
  unfold State.completePreviewRow
  simp only []
  split
  · rename_i hlt
    exact h.setCoe (by simpa using hlt)
  · exact WithinLimits.raise (by exact h.setCoe h.rows) _

theorem WithinLimits.previewLine (h : WithinLimits s) (px : List Pixel) :
    WithinLimits (s.previewLine px) := by
  unfold State.previewLine
  split
  · simp only []
    split
    · exact WithinLimits.completePreviewRow (by exact h.setCoe h.rows)
    · exact h.setCoe h.rows
  · exact h

theorem WithinLimits.previewTail (h : WithinLimits s) : WithinLimits s.previewTail := by
  unfold State.previewTail
  split
  · split
    · exact h.completePreviewRow
    · exact h
  · exact h.setCoe h.rows

theorem WithinLimits.coeClear (h : WithinLimits s) : WithinLimits s.coeClear :=
  (h.setCoe (x := { s.coe with
    step := .idle, frame := none, segOffset := 0, settled := 0, boxes := [], lineCount := 0,
    rowIndex := 0, rows := [], previewOffset := 0, previewDone := true }) (Nat.zero_le _)).setLif
    rfl rfl h.reports (h.waitList.filter _)

theorem WithinLimits.frdClear (h : WithinLimits s) : WithinLimits s.frdClear :=
  (h.setLif (x := { s.lif with waitList := s.lif.waitList.filter (· ≠ .frd) }) rfl rfl h.reports
    (h.waitList.filter _)).of_outer (State.outer_frdClear s)

theorem WithinLimits.takeImage (h : WithinLimits s) {r : Record} (e : s.takeImage = some (r, t)) :
    WithinLimits t := h.of_outer (State.outer_takeImage e)

theorem WithinLimits.takePreview (h : WithinLimits s) {r : Record}
    (e : s.takePreview = some (r, t)) : WithinLimits t := by
  unfold State.takePreview at e
  split at e
  · cases e
  · rename_i row rest hrow
    simp only [] at e
    split at e
    · cases e; exact h.setCoe h.rows
    · cases e
      refine h.setCoe ?_
      have := h.rows
      rw [hrow] at this
      exact Nat.le_trans (Nat.le_succ _) this

end image

/-! ## Reports -/

section reports

variable {s t : State}

theorem WithinLimits.pushReport (h : WithinLimits s) (r : Record)
    (hlt : s.lif.reports.length < Config.reportCapacity) : WithinLimits (s.pushReport r) :=
  h.setLif rfl rfl (by simpa using hlt) h.waitList

theorem WithinLimits.placeFrameDone (h : WithinLimits s) (n : Nat)
    (hlt : s.lif.reports.length < Config.reportCapacity) : WithinLimits (s.placeFrameDone n) := by
  unfold State.placeFrameDone
  split
  · rename_i r _
    exact (h.pushReport r hlt).of_outer (by simp)
  · exact h

/-- The tables that a run writes are canonical. -/
theorem Cap.tablesWf_writeResults {c : Cap} (h : c.tablesWf = true) (r : CalRun) (b : Bool) :
    (c.writeResults r b).tablesWf = true := by
  simp only [Cap.tablesWf, Bool.and_eq_true] at h
  simp only [Cap.writeResults, writeTables, PerChannel.zip, Cap.tablesWf, Bool.and_eq_true]
  refine ⟨⟨⟨⟨⟨⟨⟨?_, ?_⟩, ?_⟩, ?_⟩, ?_⟩, ?_⟩, ?_⟩, ?_⟩ <;> refine Table.wf_writeFrom ?_ _ _ <;> tauto

theorem WithinLimits.placeCal (h : WithinLimits s)
    (hlt : s.lif.reports.length < Config.reportCapacity) : WithinLimits s.placeCal := by
  unfold State.placeCal
  split
  · exact h
  · rename_i r hr
    have h1 := (h.pushReport r.record hlt).setCap (x := { s.cap with report := none }) h.tables rfl
    simp only []
    split
    · split
      · exact (h1.setCap (Cap.tablesWf_writeResults h1.tables _ _) rfl).setOp _
      · exact h1
    · exact h1

theorem WithinLimits.placeFrd (h : WithinLimits s)
    (hlt : s.lif.reports.length < Config.reportCapacity) : WithinLimits s.placeFrd := by
  unfold State.placeFrd
  split
  · exact h
  · exact WithinLimits.setFrd (WithinLimits.pushReport h _ hlt) _
  · exact WithinLimits.placeFrameDone (by exact h.setFrd _) _ hlt

theorem WithinLimits.placeCoe (h : WithinLimits s)
    (hlt : s.lif.reports.length < Config.reportCapacity) : WithinLimits s.placeCoe := by
  unfold State.placeCoe
  split
  · exact WithinLimits.placeFrameDone (by exact h.setCoe h.rows) _ hlt
  · exact h.setCoe h.rows

theorem WithinLimits.placeScn (h : WithinLimits s)
    (hlt : s.lif.reports.length < Config.reportCapacity) : WithinLimits s.placeScn := by
  unfold State.placeScn
  split
  · exact h
  · split
    · rename_i m ms hm
      refine WithinLimits.setScn (WithinLimits.pushReport h _ hlt) ?_ h.setup
      have := h.markers
      rw [hm] at this
      exact Nat.le_trans (Nat.le_succ _) this
    · exact h.setScn h.markers h.setup
  · exact WithinLimits.setScn (WithinLimits.pushReport h _ hlt) h.markers h.setup
  · simp only []
    split
    · exact WithinLimits.setOp (by exact WithinLimits.setScn (h.pushReport _ hlt) h.markers h.setup) _
    · exact WithinLimits.setScn (WithinLimits.pushReport h _ hlt) h.markers h.setup

/-- A producer that places a report into a queue with room. -/
theorem WithinLimits.place (h : WithinLimits s) (p : Producer)
    (hlt : s.lif.reports.length < Config.reportCapacity) : WithinLimits (s.place p) := by
  cases p
  · exact h.placeCal hlt
  · exact h.placeFrd hlt
  · exact h.placeCoe hlt
  · exact h.placeScn hlt

theorem WithinLimits.joinWaitList (h : WithinLimits s) (p : Producer) :
    WithinLimits (s.joinWaitList p) := by
  unfold State.joinWaitList
  split
  · exact h
  · rename_i hp
    refine h.setLif rfl rfl h.reports ?_
    refine List.nodup_append.mpr ⟨h.waitList, List.nodup_singleton p, ?_⟩
    intro a ha b hb hab
    rw [List.mem_singleton] at hb
    exact hp (List.contains_iff_mem.mpr (hb ▸ hab ▸ ha))

theorem WithinLimits.offer (h : WithinLimits s) (p : Producer) : WithinLimits (s.offer p) := by
  unfold State.offer State.offerBy
  split
  · rename_i hr
    exact h.place p hr.1
  · exact h.joinWaitList p

/-- The Frame Detector offers its oldest report within the limits. -/
theorem WithinLimits.offerFrd (h : WithinLimits s) : WithinLimits s.offerFrd := h.offer .frd

theorem WithinLimits.createFrame (h : WithinLimits s) (n : Nat) : WithinLimits (s.createFrame n) :=
  h.of_outer (State.outer_createFrame s n)

theorem WithinLimits.closeFrame (h : WithinLimits s) (f : Frame) (p : Probed) (n : Nat) (r : CloseReason) :
    WithinLimits (s.closeFrame f p n r) := by
  unfold State.closeFrame
  extract_lets c frd
  split
  · exact h.setFrd _
  · exact (h.setFrd _).offerFrd

theorem WithinLimits.completeProbe (h : WithinLimits s) (f : Frame) : WithinLimits (s.completeProbe f) := by
  unfold State.completeProbe
  extract_lets p frd s1 c2
  have h1 : WithinLimits s1 := h.setFrd _
  exact WithinLimits.offerFrd (h1.setScn h1.markers h1.setup)

theorem WithinLimits.enterGap (h : WithinLimits s) (n : Nat) : WithinLimits (s.enterGap n) := by
  unfold State.enterGap
  extract_lets c1 s1
  have h1 : WithinLimits s1 := h.setFrd _
  repeat' split
  · exact h1
  · exact h1.of_outer (State.outer_freeSliver _ _)
  · exact h1
  · exact h1.closeFrame _ _ _ _

theorem WithinLimits.frdInImage (h : WithinLimits s) (n : Nat) (c : LineClass) (g : List Nat) :
    WithinLimits (s.frdInImage n c g) := by
  unfold State.frdInImage
  extract_lets probing probe run c1 s1
  have h1 : WithinLimits s1 := h.setFrd _
  split
  · exact h1.enterGap n
  · exact h1

theorem WithinLimits.frdCloseStage (h : WithinLimits s) (n : Nat) : WithinLimits (s.frdCloseStage n) := by
  unfold State.frdCloseStage
  repeat' split
  · exact h.of_outer (State.outer_freeSliver _ _)
  · exact h
  · exact h
  · exact h.closeFrame _ _ _ _
  · unfold State.forceClose
    exact WithinLimits.createFrame ((h.closeFrame _ _ _ _).setFrd _) _
  · exact h
  · exact h

theorem WithinLimits.frdLine (h : WithinLimits s) (n : Nat) (px : List Pixel) :
    WithinLimits (s.frdLine n px) := by
  unfold State.frdLine
  extract_lets u win greens mG cls inGap s3 s4 s6
  have h3 : WithinLimits s3 := by
    simp only [s3]
    cases inGap
    · exact h.of_outer (State.outer_frdInGap s n cls greens)
    · exact h.frdInImage n cls greens
  have h4 : WithinLimits s4 := by
    simp only [s4]
    split
    · exact h3.setFrd _
    · exact h3
  have h5 : WithinLimits (s4.frdProbeStage n) := by
    unfold State.frdProbeStage
    repeat' split
    · exact h4.completeProbe _
    · exact h4
    · exact h4
  exact WithinLimits.of_outer ((h5.frdCloseStage n).setFrd _) (State.outer_refreshSettled _)

theorem WithinLimits.giveRoom (h : WithinLimits s)
    (hlt : s.lif.reports.length < Config.reportCapacity) : WithinLimits s.giveRoom := by
  unfold State.giveRoom
  split
  · exact h
  · rename_i p rest hw
    have hnd : rest.Nodup := by
      have := h.waitList
      rw [hw] at this
      exact (List.nodup_cons.mp this).2
    have h1 := (h.setLif (x := { s.lif with waitList := rest }) rfl rfl h.reports hnd).place p hlt
    simp only []
    split
    · exact h1.joinWaitList p
    · exact h1

/-- Testing the markers adds none and takes none away. -/
theorem reachNext_length {n : Nat} {l k : List Marker} (h : reachNext n l = some k) :
    k.length = l.length := by
  induction l generalizing k with
  | nil => cases h
  | cons m ms ih =>
    unfold reachNext at h
    split at h
    · obtain ⟨x, hx, rfl⟩ := Option.map_eq_some_iff.mp h
      simp [ih hx]
    · split at h
      · cases h; rfl
      · cases h

theorem WithinLimits.testMarker (h : WithinLimits s) (e : s.testMarker = some t) : WithinLimits t := by
  unfold State.testMarker at e
  split at e
  · rename_i ms hm
    cases e
    exact h.setScn (by rw [reachNext_length hm]; exact h.markers) h.setup
  · cases e

theorem Scn.markers_reachAll (c : Scn) (b : Bool) :
    (c.reachAll b).markers.length = c.markers.length := by simp [Scn.reachAll]

theorem WithinLimits.drainCheck (h : WithinLimits s) (e : s.drainCheck = some t) : WithinLimits t := by
  unfold State.drainCheck at e
  simp only [] at e
  split at e
  · split at e
    · cases e
    · have h1 := h.setScn (x := { s.scn with drain := s.drainNow }) h.markers h.setup
      have h2 : WithinLimits (if s.drainNow.previewDone then
          (s.setScn { s.scn with drain := s.drainNow }).setCoe { s.coe with previewDone := true }
          else s.setScn { s.scn with drain := s.drainNow }) := by
        split
        · exact h1.setCoe h.rows
        · exact h1
      split at e
      · cases e
        refine h2.setScn ?_ h2.setup
        rw [Scn.markers_reachAll]
        exact h2.markers
      · cases e
        exact h2
  · cases e

/-- The device settles within its limits. -/
theorem WithinLimits.settle (h : WithinLimits s) : WithinLimits s.settle := by
  refine State.settle_induct (P := WithinLimits) ?_ h
  intro a b ha hb
  rcases State.settleStep_cases hb with e | e | e | ⟨p, -, rfl⟩ | ⟨-, rfl⟩
  · exact ha.of_outer (State.outer_coeAdvance e)
  · exact ha.testMarker e
  · exact ha.drainCheck e
  · exact ha.offer p
  · exact ha.setOp _

end reports

/-! ## The Scan Controller -/

section scan

variable {s t : State}

theorem WithinLimits.scanClear (h : WithinLimits s) : WithinLimits s.scanClear := by
  have h1 : WithinLimits s.stopOrder := h.of_outer (State.outer_stopOrder s)
  have h2 : WithinLimits (s.stopOrder.setCap s.stopOrder.cap.endCapture) := h1.setCap h1.tables rfl
  have h3 := h2.of_outer (State.outer_ringClear _)
  have h4 := h3.frdClear.of_outer (State.outer_dfdClear _)
  have h5 := h4.of_outer (State.outer_rpeClear _)
  exact h5.coeClear

theorem WithinLimits.stopScan (h : WithinLimits s) (r : EndReason) : WithinLimits (s.stopScan r) := by
  unfold State.stopScan
  simp only []
  have h1 := h.scanClear
  generalize s.scanClear = u at h1
  refine WithinLimits.setOp ?_ _
  exact h1.setScn ((Scn.markers_reachAll u.scn true).trans_le h1.markers) h1.setup

theorem WithinLimits.scanFault (h : WithinLimits s) (k : FaultKind) (n : Nat) :
    WithinLimits (s.scanFault k n) := by
  unfold State.scanFault
  simp only []
  have h1 := h.scanClear
  generalize s.scanClear = u at h1
  refine WithinLimits.setOp ?_ _
  exact h1.setScn ((Scn.markers_reachAll _ true).trans_le h1.markers) h1.setup

theorem WithinLimits.endCalRun (h : WithinLimits s) (o : CalOutcome) : WithinLimits (s.endCalRun o) := by
  unfold State.endCalRun
  split
  · exact h.setCap h.tables rfl
  · exact h

theorem WithinLimits.moveFault (h : WithinLimits s) (k : FaultKind) : WithinLimits (s.moveFault k) := by
  have h1 := h.endCalRun .aborted
  refine WithinLimits.setOp ?_ _
  exact h1.setScn h1.markers h1.setup

theorem WithinLimits.endStopAct (h : WithinLimits s) : WithinLimits s.endStopAct := by
  have h1 : WithinLimits (s.stopAtOnce.raise .endStop) := (h.setTrc _).raise _
  unfold State.endStopAct
  simp only []
  split
  · exact h1.moveFault _
  · split
    · exact h1.scanFault _ _
    · exact h1

theorem WithinLimits.homeFailed (h : WithinLimits s) : WithinLimits s.homeFailed := by
  have h1 : WithinLimits s.stopAtOnce := h.of_outer (State.outer_stopAtOnce s)
  unfold State.homeFailed
  simp only []
  split
  · exact h1.moveFault _
  · exact h1

theorem WithinLimits.lateLine (h : WithinLimits s) : WithinLimits s.lateLine := by
  have h1 : WithinLimits ((s.setCap s.cap.endCapture).raise .lineLate) :=
    WithinLimits.raise (by exact h.setCap h.tables rfl) _
  unfold State.lateLine
  split
  · exact h
  · simp only []
    split
    · exact h1.scanFault _ _
    · split
      · exact ((h1.endCalRun _).of_outer (State.outer_stopOrder _)).setOp _
      · exact h1

theorem WithinLimits.lineStep (h : WithinLimits s) : WithinLimits s.lineStep := by
  unfold State.lineStep
  split
  · split
    · exact h.lateLine
    · exact h.setCap h.tables rfl
  · exact h

theorem WithinLimits.drainStart (h : WithinLimits s) : WithinLimits s.drainStart :=
  WithinLimits.previewTail (h.of_outer (by simp))

theorem WithinLimits.scanLine (h : WithinLimits s) (f : Bool) (n : Nat) (raw : List Pixel) :
    WithinLimits (s.scanLine f n raw) := by
  unfold State.scanLine
  extract_lets px s1 left c2 s2 c3 s3 baseR baseIR s4 s5
  have h1 : WithinLimits s1 := h.of_outer (State.outer_ringAppend s n px)
  have h2 : WithinLimits s2 := WithinLimits.setCap h1 h1.tables rfl
  have h3 : WithinLimits s3 :=
    (WithinLimits.setScn h2 h2.markers h2.setup).of_outer (State.outer_ringRelease _)
  have h4 : WithinLimits s4 := by
    simp only [s4]
    split
    · exact (h3.of_outer (State.outer_dfdLine _ _ _ _ _)).frdLine _ _
    · exact (h3.frdLine _ _).of_outer (State.outer_dfdLine _ _ _ _ _)
  have h5 : WithinLimits s5 := (h4.previewLine px).of_outer (State.outer_ringRelease _)
  split
  · exact h5.drainStart
  · exact h5

theorem WithinLimits.calLine (h : WithinLimits s) (raw : List Pixel) : WithinLimits (s.calLine raw) := by
  have key : ∀ x : Cap, x.dark = s.cap.dark → x.gain = s.cap.gain → x.afe = s.cap.afe →
      WithinLimits (s.setCap x) := by
    intro x hd hg ha
    refine h.setCap ?_ ha
    have := h.tables
    simpa only [Cap.tablesWf, hd, hg] using this
  have hw : ∀ c : Cap, c.beginWarmUp.dark = c.dark ∧ c.beginWarmUp.gain = c.gain ∧
      c.beginWarmUp.afe = c.afe := by
    intro c
    unfold Cap.beginWarmUp Cap.lampOn
    simp only []
    repeat' split
    all_goals exact ⟨rfl, rfl, rfl⟩
  unfold State.calLine
  split
  · exact h
  · simp only []
    split
    · split
      · refine key _ ?_ ?_ ?_ <;> simp only [Cap.darkDone, hw]
      · exact key _ rfl rfl rfl
    · split <;> exact key _ rfl rfl rfl
    · exact h

theorem WithinLimits.pixelsArrive (h : WithinLimits s) (f : Bool) (px : List Pixel) :
    WithinLimits (s.pixelsArrive f px) := by
  have h1 : WithinLimits (s.setCap (s.cap.takePixels s.setup.w px).1) := by
    unfold Cap.takePixels
    split
    · exact h
    · simp only []
      split <;> exact WithinLimits.setCap h h.tables rfl
  unfold State.pixelsArrive
  extract_lets taken s1
  split
  · exact h1
  · split
    · exact h1.scanLine _ _ _
    · split
      · exact h1.calLine _
      · exact h1

theorem Cap.tablesWf_lampOn (c : Cap) : c.lampOn.tablesWf = c.tablesWf := by
  unfold Cap.lampOn; split <;> rfl

theorem WithinLimits.startScan (h : WithinLimits s) : WithinLimits s.startScan := by
  unfold State.startScan
  extract_lets u s1 s2
  have h1 : WithinLimits (s.setScn s.scn.started) := WithinLimits.setScn h h.markers h.setup
  have h2 : WithinLimits ((s.setScn s.scn.started).setCap (s.cap.started u)) := WithinLimits.setCap h1
    ((Cap.tablesWf_lampOn s.cap).trans h.tables) (Cap.afe_lampOn s.cap)
  have h3 : WithinLimits s1 := h2.of_outer rfl
  have h4 : WithinLimits (s1.setCoe (s.coe.started u)) := WithinLimits.setCoe h3 (Nat.zero_le _)
  have h5 : WithinLimits s2 := (h4.setTrc _).setOp _
  split
  · exact h5.of_outer (State.outer_releaseRunUp s2)
  · exact h5

theorem WithinLimits.softReset (h : WithinLimits s) : WithinLimits s.softReset :=
  ⟨Nat.zero_le _, Nat.zero_le _, List.nodup_nil, Nat.zero_le _, Nat.zero_le _,
    fun hc => absurd rfl hc, h.tables, h.setup⟩

/-- The power-on defaults are a setup in range (section 10.3). -/
theorem SetupInRange.default : SetupInRange Setup.default := by
  constructor <;> decide

theorem WithinLimits.powerOn (pins : Pins) (q : List Instr) : WithinLimits (State.powerOn pins q) :=
  ⟨Nat.zero_le _, Nat.zero_le _, List.nodup_nil, Nat.zero_le _, Nat.zero_le _,
    fun hc => absurd rfl hc, rfl, SetupInRange.default⟩

end scan

/-! ## The carriage's own events -/

section carriage

variable {s : State}

theorem WithinLimits.endFell (h : WithinLimits s) (b : Bool) : WithinLimits (s.endFell b) := by
  unfold State.endFell
  split
  · exact h.setPins _
  · exact h

theorem WithinLimits.stepOnce (h : WithinLimits s) : WithinLimits s.stepOnce :=
  WithinLimits.lineStep (h.setTrc _)

theorem WithinLimits.captureResume (h : WithinLimits s) : WithinLimits s.captureResume := by
  unfold State.captureResume
  extract_lets c1 s1 c2 s2 c3 s3 s4
  have h1 : WithinLimits s1 := h.setTrc _
  have h2 : WithinLimits s2 := h1.setCap h1.tables rfl
  have h3 : WithinLimits s3 := by
    simp only [s3]
    split
    · exact WithinLimits.setScn h2 h2.markers h2.setup
    · exact h2
  have h4 : WithinLimits s4 := by
    simp only [s4]
    split
    · exact h3.setOp _
    · exact h3
  exact h4.lineStep

theorem WithinLimits.homingStep (h : WithinLimits s) : WithinLimits s.homingStep := by
  unfold State.homingStep
  extract_lets s1
  have h1 : WithinLimits s1 := h.stepOnce
  split
  · simp only []
    split
    · exact WithinLimits.homeFailed (h1.setTrc _)
    · exact h1.setTrc _
  · exact h1

theorem WithinLimits.motionStep (h : WithinLimits s) : WithinLimits s.motionStep := by
  have h1 := h.stepOnce
  unfold State.motionStep
  split
  · exact h
  · exact h.homingStep
  · simp only []
    split
    · exact h1.of_outer (State.outer_moveArrived _)
    · exact h1
  · simp only []
    split
    · exact h1.of_outer (State.outer_beginApproach _)
    · exact h1
  · simp only []
    split
    · exact WithinLimits.captureResume (h.setTrc _)
    · exact WithinLimits.lineStep (h.setTrc _)
  · exact h1

theorem WithinLimits.startInterval (h : WithinLimits s) (e : Nat) : WithinLimits (s.startInterval e) := by
  unfold State.startInterval
  split
  · exact h
  · exact h.setTrc _

theorem WithinLimits.rangeEnd (h : WithinLimits s) : WithinLimits s.rangeEnd := by
  refine h.of_outer ?_
  unfold State.rangeEnd
  split <;> simp

theorem WithinLimits.homeArrives (h : WithinLimits s) : WithinLimits s.homeArrives :=
  h.of_outer (by simp [State.homeArrives])

theorem WithinLimits.intervalExpires (h : WithinLimits s) (e : Nat) :
    WithinLimits (s.intervalExpires e) := by
  unfold State.intervalExpires
  repeat' split
  · exact h
  · exact h.captureResume.startInterval e
  · exact h.endStopAct
  · exact h.rangeEnd
  · exact h.motionStep.startInterval e

theorem WithinLimits.brakingExpires (h : WithinLimits s) : WithinLimits s.brakingExpires := by
  unfold State.brakingExpires
  split
  · exact h
  · split
    · exact h.endStopAct
    · split
      · exact h.of_outer (State.outer_stopEvent s)
      · extract_lets s1 c2 s2
        have h2 : WithinLimits s2 := h.stepOnce.setTrc _
        split
        · exact h2.of_outer (State.outer_stopEvent _)
        · exact h2

theorem WithinLimits.holdExpires (h : WithinLimits s) : WithinLimits s.holdExpires := by
  refine h.of_outer ?_
  unfold State.holdExpires
  simp only []
  repeat' split
  all_goals simp

theorem WithinLimits.homeRises (h : WithinLimits s) : WithinLimits s.homeRises := by
  have h1 := h.setPins { s.pins with home := true }
  unfold State.homeRises
  simp only []
  split
  · exact h1.homeArrives
  · exact h1

theorem WithinLimits.homeFalls (h : WithinLimits s) : WithinLimits s.homeFalls := by
  have h1 := h.setPins { s.pins with home := false }
  unfold State.homeFalls
  simp only []
  repeat' split
  · exact WithinLimits.setTrc h1 _
  · exact h1
  · exact h1

theorem WithinLimits.endRises (h : WithinLimits s) : WithinLimits s.endRises := by
  have h1 := h.setPins { s.pins with endStop := true }
  unfold State.endRises
  simp only []
  split
  · exact h1
  · exact h1.endStopAct

theorem WithinLimits.homeLimit (h : WithinLimits s) : WithinLimits s.homeLimit := by
  unfold State.homeLimit
  repeat' split
  · exact h.homeFailed
  · exact h.intervalExpires 0
  · exact h
  · exact h

end carriage

/-! ## Commands -/

section commands

variable {s : State}

/-- The setup that SETUP takes is in range: the clamps and the six tests of R182. -/
theorem SetupInRange.of_clamped {p : List Byte}
    (h : (setupOf p).clamped.refusedField = none) : SetupInRange (setupOf p).clamped := by
  have b8 : ∀ i, u8 p i < 256 := fun i => (p.getD i 0#8).isLt
  have b16 : ∀ i, u16 p i < 65536 := fun i => by
    have h1 := b8 i
    have h2 := b8 (i + 1)
    unfold u16
    omega
  unfold Setup.refusedField at h
  repeat' split at h
  all_goals try cases h
  rename_i h1 h2 h3 h4 h5 h6
  have f := b16
  have g := b8
  simp only [Setup.clamped, setupOf, clamp, Config.maxHalf] at h1 h2 h3 h4 h5 h6
  constructor <;> simp only [Setup.clamped, setupOf, clamp]
  · have := f 0; omega
  · have := f 2; omega
  · omega
  · omega
  · omega
  · have h7 := f 12; have h8 := f 14; have h9 := f 16; omega
  · omega
  · omega
  · omega
  · omega
  · omega
  · omega
  · omega
  · omega
  · have := g 27; omega
  · omega
  · omega

theorem Cap.tablesWf_loadTable {c : Cap} (h : c.tablesWf = true) (ch tb first : Nat) (vs : List Half) :
    (c.loadTable ch tb first vs).tablesWf = true := by
  simp only [Cap.tablesWf, Bool.and_eq_true] at h
  have w : ∀ {t : Table}, Table.wf t = true → Table.wf (Table.writeFrom t first vs) = true :=
    fun ht => Table.wf_writeFrom ht first vs
  unfold Cap.loadTable
  split <;> rcases ch with _ | _ | _ | _ <;>
    simp only [Cap.tablesWf, Bool.and_eq_true, setChannel, channelOf] <;>
    refine ⟨⟨⟨⟨⟨⟨⟨?_, ?_⟩, ?_⟩, ?_⟩, ?_⟩, ?_⟩, ?_⟩, ?_⟩ <;> first | exact w (by tauto) | tauto

theorem WithinLimits.abortNow (h : WithinLimits s) : WithinLimits s.abortNow := by
  have h1 : WithinLimits (((s.endCalRun .aborted).stopOrder).setOp .stopping) :=
    ((h.endCalRun _).of_outer (State.outer_stopOrder _)).setOp _
  unfold State.abortNow
  split
  · exact h1
  · exact h1
  · exact h.stopScan _
  · exact h.stopScan _
  · split
    · exact h.stopScan _
    · exact h
  · exact h.setOp _
  · exact h
  · exact h

theorem WithinLimits.takeMove (h : WithinLimits s) (n : Nat) : WithinLimits (s.takeMove n) := by
  have h1 := h.setOp .positioning
  unfold State.takeMove
  simp only []
  split
  · exact h1.setTrc _
  · exact h1.of_outer (State.outer_beginMove _ n)

/-- A command other than the two of the Front-End Control Port stays within the limits and starts no
transfer. -/
theorem WithinLimits.act (h : WithinLimits s) {k : Kind} (p : List Byte) (hk : (s.act k p).reply ≠ none) :
    WithinLimits (s.act k p).state := by
  cases k
  · exact h
  · exact h
  · exact h.setLif rfl rfl h.reports h.waitList
  · exact h.abortNow.settle
  · simp only [State.act, State.actSetup, State.answer]
    split
    · exact h
    · rename_i hu
      have h1 : WithinLimits (s.setScn { s.scn with setup := (setupOf p).clamped }) :=
        h.setScn h.markers (SetupInRange.of_clamped hu)
      split
      · exact h1
      · exact h1.setCap h1.tables rfl
  · simp only [State.act, State.actProfile, State.answer]
    split
    · exact h.setCoe h.rows
    · exact h
  · simp only [State.act, State.actFormatRule, State.answer]
    split
    · exact h
    · exact h.setFrd _
  · simp only [State.act, State.actScanStart, State.answer]
    split
    · exact h
    · exact h.startScan
  · simp only [State.act, State.actMark, State.answer]
    split
    · exact h
    · rename_i hm
      refine WithinLimits.settle ?_
      refine h.setScn ?_ h.setup
      simp only [List.length_append, List.length_singleton]
      omega
  · exact h.of_outer (State.outer_post s _ _)
  · refine h.setCap ?_ ?_
    · split
      · rw [Cap.tablesWf_lampOn]; exact h.tables
      · exact h.tables
    · split
      · exact Cap.afe_lampOn _
      · rfl
  · have h1 : WithinLimits ((s.setOp .positioning).setTrc { s.trc with valid := false }) :=
      (h.setOp _).setTrc _
    simp only [State.act, State.actHome, State.answer]
    split
    · exact h1.setTrc _
    · exact h1.of_outer (State.outer_beginHoming _)
  · simp only [State.act, State.actMove, State.answer]
    split
    · exact h.takeMove _
    · exact h
  · exact absurd rfl hk
  · exact absurd rfl hk
  · simp only [State.act, State.actCalRun, State.answer]
    split
    · exact h
    · split
      · exact h
      · refine WithinLimits.takeMove ?_ _
        exact h.setCap h.tables rfl
  · simp only [State.act, State.actCalLoad, State.answer]
    split
    · exact h
    · refine h.setCap ?_ ?_
      · exact Cap.tablesWf_loadTable h.tables _ _ _ _
      · unfold Cap.loadTable; split <;> rfl
  · simp only [State.act, State.actCalRead, State.answer]
    split <;> exact h
  · exact h.enableCauses _
  · exact h.clearCauses _

end commands

/-! ## Dispatch and the arbiter -/

section link

variable {s : State}

/-- With no transfer running, the link's slot and replies may change within their capacity. -/
theorem WithinLimits.setLif_idle (h : WithinLimits s) (ha : s.cap.afe = none) {x : Lif}
    (hr : x.replies.length ≤ Config.replyCapacity) (hp : x.reports = s.lif.reports)
    (hw : x.waitList = s.lif.waitList) : WithinLimits (s.setLif x) :=
  ⟨hr, hp ▸ h.reports, hw ▸ h.waitList, h.markers, h.rows, fun hn => absurd ha hn, h.tables, h.setup⟩

theorem WithinLimits.freeSlot (h : WithinLimits s) (ha : s.cap.afe = none) : WithinLimits s.freeSlot := by
  unfold State.freeSlot
  split
  · exact h
  · exact h.setLif_idle ha h.replies rfl rfl

/-- The answer to a judged record stays within the limits. -/
theorem WithinLimits.judgeRecord (h : WithinLimits s) (r : Record) (hr : (s.judgeRecord r).reply ≠ none) :
    WithinLimits (s.judgeRecord r).state ∧ (s.judgeRecord r).state.lif.replies = s.lif.replies ∧
      (s.judgeRecord r).state.cap.afe = s.cap.afe := by
  rcases State.judgeRecord_cases s r with ⟨p, e⟩ | ⟨k, -, -, -, e⟩
  · rw [e]; exact ⟨h, rfl, rfl⟩
  · rw [e] at hr ⊢
    have hf := State.front_act s r.payload hr
    exact ⟨h.act r.payload hr, congrArg Front.replies hf, congrArg Front.afe hf⟩

/-- A record with no answer is a front-end command whose transfer has started (R19). -/
theorem State.judgeRecord_transfer {r : Record} (hr : (s.judgeRecord r).reply = none) :
    ∃ x, (s.judgeRecord r).state = s.setCap { s.cap with afe := some x } := by
  rcases State.judgeRecord_cases s r with ⟨p, e⟩ | ⟨k, -, -, -, e⟩
  · rw [e] at hr; cases hr
  · rw [e] at hr ⊢
    rcases State.act_noReply hr with rfl | rfl <;> exact ⟨_, rfl⟩

theorem WithinLimits.dispatch (h : WithinLimits s) (r : Record) (hw : s.slotWaits = true)
    (hr : s.lif.replies.length < Config.replyCapacity) : WithinLimits (s.dispatch r) := by
  simp only [State.slotWaits, Bool.and_eq_true, Bool.not_eq_true', Option.isNone_iff_eq_none,
    Option.isSome_iff_ne_none] at hw
  obtain ⟨⟨hs, ha⟩, -⟩ := hw
  unfold State.dispatch
  simp only []
  split
  · rename_i p hp
    obtain ⟨h1, h2, h3⟩ := h.judgeRecord r (by rw [hp]; exact Option.some_ne_none p)
    refine WithinLimits.freeSlot ?_ (h3.trans ha)
    refine h1.setLif_idle (h3.trans ha) ?_ rfl rfl
    simp only [List.length_append, List.length_singleton, h2]
    omega
  · rename_i hp
    obtain ⟨x, hx⟩ := State.judgeRecord_transfer hp
    rw [hx]
    exact ⟨h.replies, h.reports, h.waitList, h.markers, h.rows, fun _ => ⟨hs, hr⟩, h.tables, h.setup⟩

theorem WithinLimits.dispatchWaiting (h : WithinLimits s) : WithinLimits s.dispatchWaiting := by
  unfold State.dispatchWaiting
  split
  · split
    · rename_i hc
      simp only [Bool.and_eq_true, decide_eq_true_eq] at hc
      exact h.dispatch _ hc.1 hc.2
    · exact h
  · exact h

theorem WithinLimits.setFramer (h : WithinLimits s) (f : Framer) : WithinLimits (s.setFramer f) :=
  h.setLif rfl rfl h.reports h.waitList

theorem WithinLimits.receiveGood (h : WithinLimits s) (r : Record) : WithinLimits (s.receiveGood r) := by
  unfold State.receiveGood
  simp only []
  split
  · exact (h.setFramer .hunt).raise _
  · rename_i hs
    have ha : s.cap.afe = none := by
      by_contra hn
      exact hs (Option.isSome_iff_ne_none.mpr (h.transfer hn).1)
    exact WithinLimits.dispatchWaiting ((h.setFramer .hunt).setLif_idle ha h.replies rfl rfl)

theorem WithinLimits.send (h : WithinLimits s) (r : Record) : WithinLimits (s.send r) :=
  h.setLif rfl rfl h.reports h.waitList

theorem WithinLimits.noticeDone (h : WithinLimits s) : WithinLimits s.noticeDone :=
  h.setLif rfl rfl h.reports h.waitList

theorem WithinLimits.chooseData (h : WithinLimits s) : WithinLimits s.chooseData := by
  unfold State.chooseData
  split
  · rename_i r rest e
    have hl := h.reports
    rw [e, List.length_cons] at hl
    refine WithinLimits.settle (WithinLimits.giveRoom ?_ ?_)
    · exact WithinLimits.send
        (h.setLif (x := { s.lif with reports := rest }) rfl rfl (by simp only []; omega) h.waitList) r
    · show rest.length < _
      omega
  · split
    · rename_i e
      exact ((h.takeImage e).send _).settle
    · split
      · rename_i e
        exact ((h.takePreview e).send _).settle
      · exact h

theorem WithinLimits.chooseUnsolicited (h : WithinLimits s) : WithinLimits s.chooseUnsolicited := by
  unfold State.chooseUnsolicited
  split
  · split
    · exact h.noticeDone.send _
    · exact h.noticeDone.chooseData
  · exact h.chooseData

theorem WithinLimits.arbitrate (h : WithinLimits s) : WithinLimits s.arbitrate := by
  unfold State.arbitrate
  split
  · exact h
  · split
    · rename_i r rest e
      refine WithinLimits.dispatchWaiting ?_
      have hl := h.replies
      have ht := h.transfer
      rw [e, List.length_cons] at hl
      simp only [e, List.length_cons] at ht
      exact ⟨by show rest.length ≤ _; omega, h.reports, h.waitList, h.markers, h.rows,
        fun hn => ⟨(ht hn).1, by show rest.length < _; have := (ht hn).2; omega⟩, h.tables, h.setup⟩
    · split
      · exact h
      · exact h.chooseUnsolicited

theorem WithinLimits.finish (h : WithinLimits s) : WithinLimits s.finish := h.settle.arbitrate

theorem WithinLimits.recordEnds (h : WithinLimits s) : WithinLimits s.recordEnds := by
  unfold State.recordEnds
  split
  · exact h
  · split
    · exact h.softReset
    · exact WithinLimits.arbitrate (h.setLif rfl rfl h.reports h.waitList)

theorem WithinLimits.linkError (h : WithinLimits s) (e : LinkError) : WithinLimits (s.linkError e) :=
  WithinLimits.arbitrate (WithinLimits.raise
    (h.setLif (x := { s.lif with framer := .hunt, lastError := e }) rfl rfl h.reports h.waitList) _)

theorem WithinLimits.recordArrives (h : WithinLimits s) (r : Record) : WithinLimits (s.recordArrives r) :=
  (h.receiveGood r).arbitrate

theorem WithinLimits.takeByte (h : WithinLimits s) (b : Byte) : WithinLimits (s.takeByte b) := by
  unfold State.takeByte State.headerDone
  simp only []
  repeat' split
  all_goals first
    | exact h
    | exact h.setFramer _
    | exact h.linkError _
    | exact h.recordArrives _

theorem WithinLimits.takeBytes (h : WithinLimits s) (bs : List Byte) : WithinLimits (s.takeBytes bs) := by
  induction bs generalizing s with
  | nil => exact h
  | cons b bs ih => exact ih (h.takeByte b)

theorem WithinLimits.commandRow (h : WithinLimits s) (k t : Byte) (p : List Byte) :
    WithinLimits (s.commandRow k t p) := by
  unfold State.commandRow
  split
  · exact h.linkError _
  · exact h.recordArrives _

end link

/-! ## The other rows -/

section rows

variable {s : State}

theorem WithinLimits.holderLeaves (h : WithinLimits s) : WithinLimits s.holderLeaves := by
  unfold State.holderLeaves
  simp only []
  have h1 : WithinLimits ((s.setPins { s.pins with holder := false }).raise .holderOut) :=
    WithinLimits.raise (h.setPins _) _
  repeat' split
  · exact h1.stopScan _
  · exact h1
  · exact h

theorem WithinLimits.warmupEnds (h : WithinLimits s) : WithinLimits s.warmupEnds := by
  unfold State.warmupEnds
  simp only []
  have h1 : WithinLimits (s.setCap { s.cap with lamp := .on, warmup := false }) := h.setCap h.tables rfl
  repeat' split
  · exact h1.of_outer (State.outer_releaseRunUp _)
  · exact h1.setCap h1.tables rfl
  · exact h1
  · exact h

theorem WithinLimits.calTimerEnds (h : WithinLimits s) : WithinLimits s.calTimerEnds := by
  unfold State.calTimerEnds
  repeat' split
  · exact h.lateLine
  · exact h.setCap h.tables rfl
  · exact h

theorem WithinLimits.transferEnds (h : WithinLimits s) (t : AfeTransfer) (n : Option AfeByte) (d : Byte)
    (ha : s.cap.afe ≠ none) : WithinLimits (s.transferEnds t n d) := by
  have hr := (h.transfer ha).2
  have h1 : WithinLimits (s.setCap { s.cap with afe := none }) :=
    ⟨h.replies, h.reports, h.waitList, h.markers, h.rows, fun hn => absurd rfl hn, h.tables, h.setup⟩
  have key : ∀ s2 : State, WithinLimits s2 → s2.cap.afe = none → s2.lif.replies = s.lif.replies →
      ∀ r : Record, WithinLimits ((s2.pushReply r).freeSlot) := by
    intro s2 h2 ha2 hr2 r
    refine WithinLimits.freeSlot (h2.setLif_idle ha2 ?_ rfl rfl) ha2
    simp only [List.length_append, List.length_singleton, hr2]
    omega
  have h2 := WithinLimits.raise h1 .afeNack
  have h2r : ((s.setCap { s.cap with afe := none }).raise .afeNack).front =
      (s.setCap { s.cap with afe := none }).front := State.front_raise _ _
  unfold State.transferEnds
  simp only []
  split <;> split
  · exact (key _ h2 (congrArg Front.afe h2r) (congrArg Front.replies h2r) _).arbitrate
  · exact (key _ h1 rfl rfl _).arbitrate
  · exact h2.arbitrate
  · exact h1.arbitrate

end rows

end Sys2Proof.Machine
end

