-- ==== Sys2Proof/Laws/Still.lean ====
section
/-! SUPPORT. What the carriage's motion and the flags leave alone: the ring, the tables, the queues, the output
and preview, the lines of capture and the demands. One lemma per operation, and what a demand and an evaluation
of release change besides. -/

namespace Sys2Proof.Machine

/-- The part of a scan that an operation state belongs to: none for the states in which the device has no scan's
lines, frames or regions (R148). -/
inductive Phase where
  | rest | preparing | scanning | draining
deriving DecidableEq, Repr

/-- The part of a scan of an operation state (R148). -/
def OpState.phase : OpState → Phase
  | .preparing => .preparing
  | .scanning => .scanning
  | .draining => .draining
  | .idle | .positioning | .calibrating | .stopping | .faulted => .rest

/-- What the motion of the carriage and the flags leave alone. -/
structure Still where
  phase : Phase
  rng : Rng
  frd : Frd
  dfd : Dfd
  rpe : Rpe
  coe : Coe
  pins : Pins
  pending : List Instr
  scn : Scn
  lif : Lif
  ring : Grade
  repair : Grade
  table : Grade
  cap : Grade
  nextLine : Nat
  remaining : Nat
  inFlight : Option Flight
  report : Option CalReport

/-- What the motion of the carriage and the flags leave alone, of a state. -/
def State.still (s : State) : Still where
  phase := s.scn.op.phase
  rng := s.rng
  frd := s.frd
  dfd := s.dfd
  rpe := s.rpe
  coe := s.coe
  pins := s.pins
  pending := s.pending
  scn := { s.scn with op := .idle }
  lif := { s.lif with noticeDue := false }
  ring := s.trc.ring
  repair := s.trc.repair
  table := s.trc.table
  cap := s.trc.cap
  nextLine := s.cap.nextLine
  remaining := s.cap.remaining
  inFlight := s.cap.inFlight
  report := s.cap.report

section still

variable {s t : State}

theorem State.still_rng (h : t.still = s.still) : t.rng = s.rng := congrArg Still.rng h
theorem State.still_frd (h : t.still = s.still) : t.frd = s.frd := congrArg Still.frd h
theorem State.still_dfd (h : t.still = s.still) : t.dfd = s.dfd := congrArg Still.dfd h
theorem State.still_rpe (h : t.still = s.still) : t.rpe = s.rpe := congrArg Still.rpe h
theorem State.still_coe (h : t.still = s.still) : t.coe = s.coe := congrArg Still.coe h
theorem State.still_setup (h : t.still = s.still) : t.setup = s.setup := congrArg (fun x => x.scn.setup) h

end still

/-! ## Flags -/

@[simp] theorem State.still_setNtu (s : State) (x : Ntu) : (s.setNtu x).still = s.still := rfl

@[simp] theorem State.still_noticeDue (s : State) : s.noticeDue.still = s.still := rfl

@[simp] theorem State.still_raise (s : State) (c : Cause) : (s.raise c).still = s.still := by
  rw [State.raise_form]; rfl

@[simp] theorem State.still_evalHalted (s : State) : s.evalHalted.still = s.still := by
  rw [State.evalHalted_form]; rfl

@[simp] theorem State.still_setOp (s : State) (op : OpState) :
    (s.setOp op).still = { s.still with phase := op.phase } := by
  simp only [State.setOp, State.still_evalHalted]; rfl

/-- A change of the operation state that stays within its part of a scan. -/
theorem State.still_setOp_same (s : State) {op : OpState} (h : op.phase = s.scn.op.phase) :
    (s.setOp op).still = s.still := by rw [State.still_setOp, h]; rfl

/-! ## The carriage -/

@[simp] theorem State.still_moveComplete (s : State) : s.moveComplete.still = s.still := by
  unfold State.moveComplete
  split
  · rename_i h
    split
    · rw [State.still_setOp_same _ (by rw [State.setCap_scn, h]; rfl)]; rfl
    · exact State.still_setOp_same _ (by rw [h]; rfl)
  · rfl

@[simp] theorem State.still_moveArrived (s : State) : s.moveArrived.still = s.still := by
  rw [State.moveArrived, State.still_moveComplete]; rfl

@[simp] theorem State.still_beginMove (s : State) (n : Nat) : (s.beginMove n).still = s.still := by
  unfold State.beginMove
  split
  · simp
  · rfl

@[simp] theorem State.still_beginHoming (s : State) : s.beginHoming.still = s.still := rfl

@[simp] theorem State.still_beginApproach (s : State) : s.beginApproach.still = s.still := rfl

@[simp] theorem State.still_beginBacktrack (s : State) : s.beginBacktrack.still = s.still := by
  unfold State.beginBacktrack
  simp only []
  split <;> rfl

@[simp] theorem State.still_resumeAtRest (s : State) : s.resumeAtRest.still = s.still := by
  unfold State.resumeAtRest
  split <;> (try split) <;> first | rfl | simp

@[simp] theorem State.still_stopEvent (s : State) : s.stopEvent.still = s.still := by
  unfold State.stopEvent
  simp only []
  split <;> simp <;> rfl

@[simp] theorem State.still_brake (s : State) : s.brake.still = s.still := by
  unfold State.brake
  simp only []
  split
  · rfl
  · rw [State.still_stopEvent]; rfl

@[simp] theorem State.still_stopOrder (s : State) : s.stopOrder.still = s.still := by
  unfold State.stopOrder
  simp only []
  repeat' split
  all_goals first | rfl | (rw [State.still_brake]; rfl)

@[simp] theorem State.still_stopAtOnce (s : State) : s.stopAtOnce.still = s.still := rfl

@[simp] theorem State.still_halt (s : State) : s.halt.still = s.still := by
  unfold State.halt
  rw [State.still_brake]; rfl

@[simp] theorem State.still_regrade (s : State) (r : Grade) : (s.regrade r).still = s.still := by
  unfold State.regrade
  repeat' split
  all_goals first | rfl | simp

@[simp] theorem State.still_rehold (s : State) (r : Grade) : (s.rehold r).still = s.still := by
  unfold State.rehold
  repeat' split
  all_goals rfl

@[simp] theorem State.still_gradeChanged (s : State) (r : Grade) : (s.gradeChanged r).still = s.still := by
  unfold State.gradeChanged
  repeat' split
  all_goals first | rfl | simp

@[simp] theorem State.still_releaseRunUp (s : State) : s.releaseRunUp.still = s.still := by
  unfold State.releaseRunUp
  simp only []
  split <;> rfl

/-- A demand changes the grade that its source posts, and nothing else of `still` (R134, R135). -/
@[simp] theorem State.still_post (s : State) (src : Source) (g : Grade) :
    (s.post src g).still = (s.setTrc (s.trc.keep src g)).still := by
  unfold State.post
  simp only []
  split
  · simp
  · simp

/-! ## The operation state

Only a move that completes changes the operation state: from POSITIONING. -/

section op

variable {s : State}

theorem State.op_raise (s : State) (c : Cause) : (s.raise c).scn.op = s.scn.op := by
  rw [State.raise_form]; rfl

theorem State.op_evalHalted (s : State) : s.evalHalted.scn.op = s.scn.op := by
  rw [State.evalHalted_form]; rfl

theorem State.op_setOp (s : State) (op : OpState) : (s.setOp op).scn.op = op := by
  rw [State.setOp, State.op_evalHalted]; rfl

theorem State.op_beginMove (h : s.scn.op ≠ .positioning) (n : Nat) : (s.beginMove n).scn.op = s.scn.op := by
  unfold State.beginMove State.moveArrived State.moveComplete
  split
  · rw [if_neg (by exact h)]; rfl
  · rfl

theorem State.op_stopEvent (h : s.scn.op ≠ .positioning) : s.stopEvent.scn.op = s.scn.op := by
  unfold State.stopEvent State.resumeAtRest State.beginBacktrack
  simp only []
  split
  · rfl
  · exact State.op_beginMove (s := s.setTrc { s.trc.parkedNow with queued := none }) h _
  · repeat' split
    all_goals rfl

theorem State.op_brake (h : s.scn.op ≠ .positioning) : s.brake.scn.op = s.scn.op := by
  unfold State.brake
  simp only []
  split
  · rfl
  · exact State.op_stopEvent (s := s.setTrc _) h

theorem State.op_gradeChanged (h : s.scn.op ≠ .positioning) (r : Grade) :
    (s.gradeChanged r).scn.op = s.scn.op := by
  unfold State.gradeChanged State.rehold State.regrade State.halt
  repeat' split
  all_goals first | rfl | exact State.op_brake h

/-- A demand leaves the operation state outside POSITIONING (R135, R148). -/
theorem State.op_post (h : s.scn.op ≠ .positioning) (src : Source) (g : Grade) :
    (s.post src g).scn.op = s.scn.op := by
  have h1 : (s.setTrc (s.trc.keep src g)).evalHalted.scn.op = s.scn.op := State.op_evalHalted _
  unfold State.post
  simp only []
  split
  · exact h1
  · rw [State.op_gradeChanged (by rw [h1]; exact h), h1]

end op

/-! ## Release -/

/-- Releasing keeps the newest lines: what is left is an end of what was there (R28). -/
theorem State.keptLines_suffix (s : State) : s.keptLines <:+ s.rng.lines := List.dropWhile_suffix _

/-- An evaluation of release: where lines leave, the first line left is reported and the ring's demand is
posted; nothing else of `still` changes (R28, R30, R31). -/
theorem State.still_ringRelease (s : State) : s.ringRelease.still =
    if s.keptLines.length = s.rng.lines.length then s.still
    else { s.still with
      rng := ⟨s.keptLines⟩
      ring := ringGrade s.keptLines.length
      scn := { s.still.scn with firstHeld := firstLeft s.rng.lines s.keptLines } } := by
  unfold State.ringRelease
  simp only []
  split
  · rfl
  · rw [State.still_post]
    rfl

theorem State.ringRelease_lines (s : State) : s.ringRelease.rng.lines = s.keptLines := by
  have h := congrArg (fun x => x.rng.lines) s.still_ringRelease
  by_cases hl : s.keptLines.length = s.rng.lines.length
  · rw [if_pos hl] at h
    exact h.trans (s.keptLines_suffix.eq_of_length hl).symm
  · rw [if_neg hl] at h
    exact h

theorem State.op_ringRelease {s : State} (h : s.scn.op ≠ .positioning) : s.ringRelease.scn.op = s.scn.op := by
  unfold State.ringRelease
  simp only []
  split
  · rfl
  · rw [State.op_post]
    · rfl
    · exact h

/-- What an evaluation of release keeps (R28). -/
theorem State.ringRelease_keeps (s : State) : s.ringRelease.frd = s.frd ∧ s.ringRelease.dfd = s.dfd ∧
    s.ringRelease.rpe = s.rpe ∧ s.ringRelease.coe = s.coe ∧ s.ringRelease.pins = s.pins ∧
    s.ringRelease.setup = s.setup ∧ s.ringRelease.trc.table = s.trc.table ∧
    s.ringRelease.trc.repair = s.trc.repair ∧ s.ringRelease.cap.nextLine = s.cap.nextLine ∧
    s.ringRelease.cap.inFlight = s.cap.inFlight ∧ s.ringRelease.scn.due = s.scn.due ∧
    s.ringRelease.scn.drain = s.scn.drain := by
  have h := s.still_ringRelease
  generalize s.ringRelease = t at h ⊢
  have h2 : { t.still with rng := s.rng, ring := s.trc.ring, scn := { t.still.scn with firstHeld := 0 } } =
      { s.still with scn := { s.still.scn with firstHeld := 0 } } := by
    split at h <;> rw [h] <;> rfl
  simp only [State.still, Still.mk.injEq, Scn.mk.injEq] at h2
  obtain ⟨-, -, h3, h4, h5, h6, h7, -, ⟨-, h8, -, -, -, -, -, -, h9, -, -, -, h10⟩, -, -, h11, h12, -, h13, -, h14, -⟩ := h2
  exact ⟨h3, h4, h5, h6, h7, h8, h12, h11, h13, h14, h10, h9⟩

end Sys2Proof.Machine
end

