-- ==== Sys2Proof/Laws/Order.lean ====
section
/-! SUPPORT. The tables of a scan stay in order (`TablesInOrder`): one lemma for each operation that touches the
ring, the Frame Table, the Region Table or the lines of capture; everything else leaves the view of them alone. -/

namespace Sys2Proof.Machine

/-! ## The view of a state that the tables' order reads -/

/-- What `TablesInOrder` reads of a state. -/
structure OrderView where
  setup : Setup
  phase : Phase
  ended : Bool
  count : Nat
  numbers : List Nat
  nextNumber : Nat
  demand : Grade
  regions : List (Nat × Nat × Nat)
  lines : List Nat
  flight : Option Nat
  nextLine : Nat

/-- What the tables' order reads of a region: its slot and its first and last raw line. -/
def Region.place (r : Region) : Nat × Nat × Nat := (r.slot, r.first, r.last)

/-- What the tables' order reads, of what the carriage's motion leaves alone. -/
def Still.orderView (x : Still) : OrderView where
  setup := x.scn.setup
  phase := x.phase
  ended := decide (ScnReport.scanEnd ∈ x.scn.due) || x.scn.drain.framesEmpty
  count := x.frd.table.length
  numbers := x.frd.numbers
  nextNumber := x.frd.nextNumber
  demand := x.table
  regions := x.dfd.regions.map Region.place
  lines := x.rng.lines.map (·.number)
  flight := x.inFlight.map (·.number)
  nextLine := x.nextLine

/-- What the tables' order reads, of a state. -/
def State.orderView (s : State) : OrderView := s.still.orderView

/-- The regions of a table are in order (R71, R76). -/
structure PlacesOk (l : List (Nat × Nat × Nat)) : Prop where
  slots : l.Pairwise fun a b => a.1 < b.1
  bounds : ∀ r ∈ l, r.1 < Config.regionCapacity ∧ r.2.2 + 1 - r.2.1 ≤ Config.maxRegionHeight

/-- The lines of a ring are numbered one after another, and while a scan captures the one being captured
follows the newest (R21, R22). -/
structure LinesOk (v : OrderView) : Prop where
  chain : v.lines.IsChain fun a b => b = a + 1
  newest : v.phase = .scanning → ∀ l, v.lines.getLast? = some l → l + 1 = v.flight.getD v.nextLine
  flight : v.phase = .scanning → ∀ f, v.flight = some f → f + 1 = v.nextLine

/-- The Frame Table is in order (R42, R47, R55). -/
structure FramesOk (v : OrderView) : Prop where
  count : v.count ≤ Config.frameCapacity
  demand : v.demand = tableGrade v.count
  room : v.phase = .scanning → v.flight ≠ none → v.count < Config.frameCapacity
  numbers : v.numbers.Pairwise (· < ·)
  nextNumber : ∀ n ∈ v.numbers, n < v.nextNumber
  noFrames : v.phase = .rest ∨ v.phase = .preparing → v.count = 0
  ended : v.ended = true → v.phase ≠ .preparing ∧ v.phase ≠ .scanning ∧ v.count = 0

/-- The tables' order, of the view. -/
structure OrderView.Ok (v : OrderView) : Prop where
  frames : FramesOk v
  places : PlacesOk v.regions
  lines : LinesOk v

section view

variable {s t : State}

theorem State.orderView_setup (s : State) : s.orderView.setup = s.setup := rfl

theorem State.orderView_of_still (h : t.still = s.still) : t.orderView = s.orderView :=
  congrArg Still.orderView h

theorem OpState.phase_scanning {o : OpState} : o.phase = .scanning ↔ o = .scanning := by cases o <;> decide

theorem OpState.phase_preparing {o : OpState} : o.phase = .preparing ↔ o = .preparing := by cases o <;> decide

theorem OpState.phase_holdsNoLines {o : OpState} :
    o.phase = .rest ∨ o.phase = .preparing ↔ o.holdsNoLines = true := by cases o <;> decide

/-- Regions in distinct slots below 64 are at most 64. -/
theorem PlacesOk.length {l : List (Nat × Nat × Nat)} (h : PlacesOk l) : l.length ≤ Config.regionCapacity := by
  have hn : (l.map (·.1)).Nodup := by
    rw [List.nodup_iff_pairwise_ne, List.pairwise_map]
    exact h.slots.imp fun h => Nat.ne_of_lt h
  have hs : (l.map (·.1)) ⊆ List.range Config.regionCapacity := by
    intro x hx
    obtain ⟨r, hr, rfl⟩ := List.mem_map.mp hx
    exact List.mem_range.mpr (h.bounds r hr).1
  simpa using (List.subperm_of_subset hn hs).length_le

/-- The tables' order is a property of the view. -/
theorem tablesInOrder_iff : TablesInOrder s ↔ s.orderView.Ok := by
  have e1 : s.orderView.phase = s.scn.op.phase := rfl
  have e2 : s.orderView.ended = true ↔ .scanEnd ∈ s.scn.due ∨ s.scn.drain.framesEmpty = true := by
    show (decide (ScnReport.scanEnd ∈ s.scn.due) || s.scn.drain.framesEmpty) = true ↔ _
    rw [Bool.or_eq_true, decide_eq_true_eq]
  have e3 : s.orderView.flight ≠ none ↔ s.cap.inFlight ≠ none := by
    show s.cap.inFlight.map _ ≠ none ↔ _
    cases s.cap.inFlight <;> simp
  have e4 : s.orderView.count = 0 ↔ s.frd.table = [] := List.length_eq_zero_iff
  constructor
  · intro h
    refine ⟨⟨h.frameCount, h.frameDemand, ?_, h.numbers, h.nextNumber, ?_, ?_⟩, ⟨?_, ?_⟩, ⟨?_, ?_, ?_⟩⟩
    · rw [e1, OpState.phase_scanning, e3]; exact h.frameRoom
    · rw [e1, OpState.phase_holdsNoLines, e4]; exact h.noFrames
    · rw [e2, e1, e4, ne_eq, OpState.phase_preparing, ne_eq, OpState.phase_scanning]; exact h.ended
    · exact List.pairwise_map.mpr h.slots
    · intro r hr
      obtain ⟨q, hq, rfl⟩ := List.mem_map.mp hr
      exact h.regions q hq
    · exact (List.isChain_map _).mpr h.lines
    · rw [e1, OpState.phase_scanning]
      intro ho l hl
      obtain ⟨k, hk, rfl⟩ := Option.map_eq_some_iff.mp (List.getLast?_map ▸ hl)
      exact h.newest ho k hk
    · rw [e1, OpState.phase_scanning]
      intro ho f hf
      obtain ⟨k, hk, rfl⟩ := Option.map_eq_some_iff.mp hf
      exact h.flight ho k hk
  · rintro ⟨⟨f1, f2, f3, f4, f5, f6, f7⟩, p, ⟨l1, l2, l3⟩⟩
    rw [e1, OpState.phase_scanning, e3] at f3
    rw [e1, OpState.phase_holdsNoLines, e4] at f6
    rw [e2, e1, e4, ne_eq, OpState.phase_preparing, ne_eq, OpState.phase_scanning] at f7
    rw [e1, OpState.phase_scanning] at l2 l3
    have p1 : (s.dfd.regions.map Region.place).Pairwise fun a b => a.1 < b.1 := p.slots
    rw [List.pairwise_map] at p1
    refine ⟨f1, f2, f3, f4, f5, f6, f7, ?_, p1, ?_, (List.isChain_map _).mp l1, ?_, ?_⟩
    · simpa [State.orderView, Still.orderView, State.still] using p.length
    · intro r hr; exact p.bounds _ (List.mem_map_of_mem hr)
    · intro ho l hl
      exact l2 ho l.number (by show (s.rng.lines.map _).getLast? = _; rw [List.getLast?_map, hl]; rfl)
    · intro ho f hf
      exact l3 ho f.number (by show s.cap.inFlight.map _ = _; rw [hf]; rfl)

theorem TablesInOrder.of_view (h : TablesInOrder s) (e : t.orderView = s.orderView) : TablesInOrder t := by
  rw [tablesInOrder_iff] at h ⊢
  rw [e]; exact h

/-- Moving the carriage and setting flags leave the tables' order alone. -/
theorem TablesInOrder.of_still (h : TablesInOrder s) (e : t.still = s.still) : TablesInOrder t :=
  h.of_view (State.orderView_of_still e)

end view

/-! ## Dropping frames, regions and lines -/

/-- From one view to another, frames, regions and the oldest lines have left, and nothing else has changed but
the demand that the Frame Detector then posts. -/
structure OrderView.Drops (v w : OrderView) : Prop where
  setup : w.setup = v.setup
  phase : w.phase = v.phase
  ended : w.ended = v.ended
  count : w.count ≤ v.count
  numbers : w.numbers.Sublist v.numbers
  nextNumber : w.nextNumber = v.nextNumber
  demand : w.demand = tableGrade w.count ∨ w.demand = v.demand ∧ w.count = v.count
  regions : w.regions.Sublist v.regions
  lines : w.lines <:+ v.lines
  flight : w.flight = v.flight
  nextLine : w.nextLine = v.nextLine

theorem OrderView.Drops.refl (v : OrderView) : v.Drops v :=
  ⟨rfl, rfl, rfl, Nat.le_refl _, .refl _, rfl, .inr ⟨rfl, rfl⟩, .refl _, List.suffix_rfl, rfl, rfl⟩

theorem OrderView.Drops.trans {v w x : OrderView} (h : v.Drops w) (k : w.Drops x) : v.Drops x := by
  refine ⟨k.setup.trans h.setup, k.phase.trans h.phase, k.ended.trans h.ended, k.count.trans h.count, k.numbers.trans h.numbers,
    k.nextNumber.trans h.nextNumber, ?_, k.regions.trans h.regions, k.lines.trans h.lines,
    k.flight.trans h.flight, k.nextLine.trans h.nextLine⟩
  rcases k.demand with d | ⟨d, c⟩
  · exact .inl d
  · rcases h.demand with e | ⟨e, b⟩
    · exact .inl (by rw [d, e, c])
    · exact .inr ⟨d.trans e, c.trans b⟩

theorem PlacesOk.sublist {l k : List (Nat × Nat × Nat)} (h : PlacesOk l) (s : k.Sublist l) : PlacesOk k :=
  ⟨h.slots.sublist s, fun r hr => h.bounds r (s.subset hr)⟩

theorem List.getLast?_of_suffix {α : Type} {k l : List α} {a : α} (h : k <:+ l) (e : k.getLast? = some a) :
    l.getLast? = some a := by
  obtain ⟨m, rfl⟩ := h
  rw [List.getLast?_append, e]; rfl

theorem OrderView.Ok.drops {v w : OrderView} (h : v.Ok) (d : v.Drops w) : w.Ok := by
  obtain ⟨⟨f1, f2, f3, f4, f5, f6, f7⟩, p, ⟨l1, l2, l3⟩⟩ := h
  have hc := d.count
  refine ⟨⟨hc.trans f1, ?_, ?_, f4.sublist d.numbers, ?_, ?_, ?_⟩, p.sublist d.regions, ⟨l1.suffix d.lines, ?_, ?_⟩⟩
  · rcases d.demand with e | ⟨e, c⟩
    · exact e
    · rw [e, c]; exact f2
  · rw [d.phase, d.flight]; intro a b; exact Nat.lt_of_le_of_lt hc (f3 a b)
  · rw [d.nextNumber]; intro n hn; exact f5 n (d.numbers.subset hn)
  · rw [d.phase]; intro a; have := f6 a; omega
  · rw [d.ended, d.phase]; intro a; obtain ⟨x, y, z⟩ := f7 a; exact ⟨x, y, by omega⟩
  · rw [d.phase, d.flight, d.nextLine]; intro a l hl; exact l2 a l (List.getLast?_of_suffix d.lines hl)
  · rw [d.phase, d.flight, d.nextLine]; exact l3

/-- The view of `t` drops from that of `s`. -/
def State.Drops (s t : State) : Prop := s.orderView.Drops t.orderView

section drops

variable {s t u : State}

theorem TablesInOrder.drops (h : TablesInOrder s) (d : s.Drops t) : TablesInOrder t :=
  tablesInOrder_iff.mpr ((tablesInOrder_iff.mp h).drops d)

theorem State.Drops.refl (s : State) : s.Drops s := OrderView.Drops.refl _

theorem State.Drops.trans (h : s.Drops t) (k : t.Drops u) : s.Drops u := OrderView.Drops.trans h k

theorem State.Drops.of_view (e : t.orderView = s.orderView) : s.Drops t := by
  unfold State.Drops; rw [e]; exact .refl _

theorem State.Drops.of_still (e : t.still = s.still) : s.Drops t := .of_view (State.orderView_of_still e)

/-- An update that the view does not read, after a drop. -/
theorem State.Drops.then (h : s.Drops t) (e : u.orderView = t.orderView) : s.Drops u := h.trans (.of_view e)

/-! ### Updates of one block -/

theorem State.orderView_setFrd (s : State) (x : Frd) : (s.setFrd x).orderView = { s.orderView with
    count := x.table.length, numbers := x.numbers, nextNumber := x.nextNumber } := rfl

theorem State.orderView_setDfd (s : State) (x : Dfd) : (s.setDfd x).orderView = { s.orderView with
    regions := x.regions.map Region.place } := rfl

theorem State.orderView_setRng (s : State) (x : Rng) : (s.setRng x).orderView = { s.orderView with
    lines := x.lines.map (·.number) } := rfl

@[simp] theorem State.orderView_setLif (s : State) (x : Lif) : (s.setLif x).orderView = s.orderView := rfl
@[simp] theorem State.orderView_setCoe (s : State) (x : Coe) : (s.setCoe x).orderView = s.orderView := rfl
@[simp] theorem State.orderView_setRpe (s : State) (x : Rpe) : (s.setRpe x).orderView = s.orderView := rfl
@[simp] theorem State.orderView_setNtu (s : State) (x : Ntu) : (s.setNtu x).orderView = s.orderView := rfl
@[simp] theorem State.orderView_setPins (s : State) (x : Pins) : (s.setPins x).orderView = s.orderView := rfl

theorem State.orderView_setTrc (s : State) {x : Trc} (h : x.table = s.trc.table) :
    (s.setTrc x).orderView = s.orderView := by
  show ({ s.orderView with demand := x.table } : OrderView) = _
  rw [h]; rfl

theorem State.orderView_setCap (s : State) {x : Cap} (h1 : x.inFlight.map (·.number) = s.cap.inFlight.map (·.number))
    (h2 : x.nextLine = s.cap.nextLine) : (s.setCap x).orderView = s.orderView := by
  show ({ s.orderView with flight := x.inFlight.map _, nextLine := x.nextLine } : OrderView) = _
  rw [h1, h2]; rfl

theorem State.orderView_setScn (s : State) {x : Scn} (h1 : x.op.phase = s.scn.op.phase)
    (h2 : .scanEnd ∈ x.due ↔ .scanEnd ∈ s.scn.due) (h3 : x.drain.framesEmpty = s.scn.drain.framesEmpty)
    (h4 : x.setup = s.scn.setup) : (s.setScn x).orderView = s.orderView := by
  show ({ s.orderView with setup := x.setup, phase := x.op.phase, ended := decide (ScnReport.scanEnd ∈ x.due) || x.drain.framesEmpty } :
    OrderView) = _
  rw [h1, decide_eq_decide.mpr h2, h3, h4]; rfl

/-! ### Demands and release -/

/-- A demand of another source than the Frame Detector is not read. -/
theorem State.orderView_post (s : State) {src : Source} (h : src ≠ .table) (g : Grade) :
    (s.post src g).orderView = s.orderView := by
  unfold State.orderView
  rw [State.still_post]
  cases src <;> first | rfl | exact absurd rfl h

theorem State.orderView_postTable (s : State) :
    s.postTable.orderView = { s.orderView with demand := tableGrade s.orderView.count } := by
  unfold State.orderView State.postTable
  rw [State.still_post]; rfl

/-- The lines that release keeps are the newest ones. -/
theorem State.drops_ringRelease (s : State) : s.Drops s.ringRelease := by
  unfold State.Drops State.orderView
  rw [State.still_ringRelease]
  split
  · exact .refl _
  · refine { OrderView.Drops.refl _ with lines := ?_ }
    exact s.keptLines_suffix.map _

theorem State.Drops.ringRelease (h : s.Drops t) : s.Drops t.ringRelease := h.trans t.drops_ringRelease

/-- Frames leave the table and its demand is posted. -/
theorem State.Drops.postTable (h : s.Drops t) {x : Frd} (h1 : x.table.length ≤ t.frd.table.length)
    (h2 : x.numbers.Sublist t.frd.numbers) (h3 : x.nextNumber = t.frd.nextNumber) :
    s.Drops (t.setFrd x).postTable := by
  refine h.trans ?_
  unfold State.Drops
  rw [State.orderView_postTable, State.orderView_setFrd]
  exact { OrderView.Drops.refl _ with count := h1, numbers := h2, nextNumber := h3, demand := .inl rfl }

/-- The frames of the table change, none of them leaves, and the numbers stay. -/
theorem State.orderView_frames (s : State) {x : Frd} (h1 : x.table.length = s.frd.table.length)
    (h2 : x.numbers = s.frd.numbers) (h3 : x.nextNumber = s.frd.nextNumber) :
    (s.setFrd x).orderView = s.orderView := by
  rw [State.orderView_setFrd, h1, h2, h3]; rfl

end drops

/-! ## Frames -/

section frames

variable {s t : State}

theorem Frd.numbers_eq (c : Frd) : c.numbers = c.table.filterMap fun f => f.probed.map (·.number) := rfl

/-- A change of the frames one by one that keeps their numbers keeps the numbers of the table. -/
theorem Frd.numbers_map {c : Frd} {g : Frame → Frame} (h : ∀ f, (g f).probed.map (·.number) = f.probed.map (·.number)) :
    ({ c with table := c.table.map g } : Frd).numbers = c.numbers := by
  unfold Frd.numbers
  rw [List.filterMap_map]
  exact List.filterMap_congr fun f _ => h f

theorem setOpenReported_eq (n : Nat) (l : List Frame) : ∃ g : Frame → Frame, setOpenReported n l = l.map g ∧
    ∀ f, (g f).probed.map (·.number) = f.probed.map (·.number) := by
  refine ⟨_, rfl, fun f => ?_⟩
  cases h : f.probed with
  | none => simp [h]
  | some p => by_cases e : p.number = n <;> simp [h, e]

theorem raiseNextRow_eq (n : Nat) (l : List Frame) : ∃ g : Frame → Frame, raiseNextRow n l = l.map g ∧
    ∀ f, (g f).probed.map (·.number) = f.probed.map (·.number) := by
  refine ⟨_, rfl, fun f => ?_⟩
  cases h : f.probed with
  | none => simp [h]
  | some p => by_cases e : p.number = n <;> simp [h, e]

theorem State.orderView_mapFrames (s : State) {x : Frd} {g : Frame → Frame} (h1 : x.table = s.frd.table.map g)
    (h2 : ∀ f, (g f).probed.map (·.number) = f.probed.map (·.number)) (h3 : x.nextNumber = s.frd.nextNumber) :
    (s.setFrd x).orderView = s.orderView := by
  refine s.orderView_frames (by rw [h1, List.length_map]) ?_ h3
  have := Frd.numbers_map (c := s.frd) h2
  unfold Frd.numbers at this ⊢
  rw [h1]; exact this

theorem chargeFrames_eq {line : Nat} {add : Tally → Tally} {l k : List Frame} (h : chargeFrames line add l = some k) :
    k.length = l.length ∧ k.map (·.probed) = l.map (·.probed) := by
  induction l generalizing k with
  | nil => cases h
  | cons f fs ih =>
    unfold chargeFrames at h
    split at h
    · cases h; exact ⟨rfl, rfl⟩
    · obtain ⟨m, hm, rfl⟩ := Option.map_eq_some_iff.mp h
      obtain ⟨a, b⟩ := ih hm
      exact ⟨by simp [a], by simp [b]⟩

/-- A charge changes tallies only. -/
theorem State.orderView_charge (s : State) (line : Nat) (add : Tally → Tally) :
    (s.setFrd (s.frd.charge line add)).orderView = s.orderView := by
  unfold Frd.charge
  split
  · rename_i k h
    obtain ⟨a, b⟩ := chargeFrames_eq h
    refine s.orderView_frames a ?_ rfl
    have e : ∀ l : List Frame, l.filterMap (fun f => f.probed.map (·.number)) =
        (l.map (·.probed)).filterMap (fun p => p.map (·.number)) := fun l => by rw [List.filterMap_map]; rfl
    rw [Frd.numbers_eq, Frd.numbers_eq, e, e, b]
  · rfl

theorem State.Drops.freeFrame (h : s.Drops t) (n : Nat) : s.Drops (t.freeFrame n) := by
  unfold State.freeFrame
  refine h.postTable (List.length_filter_le _ _) ?_ rfl
  exact List.filter_sublist.filterMap _

theorem State.orderView_pushReport (s : State) (r : Record) : (s.pushReport r).orderView = s.orderView := rfl

theorem State.Drops.placeFrameDone (h : s.Drops t) (n : Nat) : s.Drops (t.placeFrameDone n) := by
  unfold State.placeFrameDone
  split
  · exact State.Drops.ringRelease (State.Drops.freeFrame (h.then (t.orderView_pushReport _)) n)
  · exact h

theorem State.Drops.placeFrd (h : s.Drops t) : s.Drops t.placeFrd := by
  unfold State.placeFrd
  split
  · exact h
  · rename_i n payload rest e
    obtain ⟨g, e1, e2⟩ := setOpenReported_eq n t.frd.table
    have e3 := State.orderView_mapFrames (t.pushReport ⟨0x41#8, 0#8, payload⟩) (g := g)
      (x := { t.frd with waiting := rest, table := setOpenReported n t.frd.table }) e1 e2 rfl
    exact (h.then (t.orderView_pushReport _)).then e3
  · rename_i n rest e
    have h1 : s.Drops (t.setFrd { t.frd with waiting := rest }) := h.then (t.orderView_frames rfl rfl rfl)
    exact h1.placeFrameDone n

theorem State.Drops.offerFrd (h : s.Drops t) : s.Drops t.offerFrd := by
  unfold State.offerFrd State.offerBy State.joinWaitList
  split
  · exact h.placeFrd
  · split
    · exact h
    · exact h.then rfl

theorem Frd.table_of_current {c : Frd} {f : Frame} (h : c.currentFrame = some f) :
    c.table = c.table.dropLast ++ [f] := by
  unfold Frd.currentFrame at h
  obtain ⟨l, e⟩ := List.getLast?_eq_some_iff.mp h
  rw [e]; simp

/-- The current frame is replaced by one with the same number. -/
theorem Frd.setCurrent_same {c : Frd} {f g : Frame} (h : c.currentFrame = some f)
    (e : g.probed.map (·.number) = f.probed.map (·.number)) :
    (c.setCurrent g).table.length = c.table.length ∧ (c.setCurrent g).numbers = c.numbers := by
  have ht := Frd.table_of_current h
  constructor
  · conv => rhs; rw [ht]
    simp [Frd.setCurrent]
  · unfold Frd.numbers Frd.setCurrent
    conv => rhs; rw [ht]
    simp only [List.filterMap_append, List.filterMap_cons, List.filterMap_nil, e]

theorem State.Drops.closeFrame (h : s.Drops t) {f : Frame} (hf : t.frd.currentFrame = some f) (p : Probed) (n : Nat)
    (r : CloseReason) : s.Drops (t.closeFrame f p n r) := by
  unfold State.closeFrame
  simp only []
  have e := Frd.setCurrent_same (g := { f with closed := some ⟨n, r, min (t.setup.n - 1) (n + f.profile.mb)⟩ }) hf rfl
  split
  · exact h.then (t.orderView_frames e.1 e.2 rfl)
  · refine State.Drops.offerFrd (h.then (t.orderView_frames e.1 ?_ rfl))
    exact e.2

theorem State.Drops.freeSliver (h : s.Drops t) (f : Frame) : s.Drops (t.freeSliver f) := by
  unfold State.freeSliver
  refine State.Drops.trans h ?_
  unfold State.Drops
  rw [State.orderView_postTable]
  refine { OrderView.Drops.refl _ with count := ?_, numbers := ?_, demand := .inl rfl }
  · show t.frd.table.dropLast.length ≤ t.frd.table.length
    simp
  · exact (List.dropLast_sublist _).filterMap _

theorem State.Drops.enterGap (h : s.Drops t) (n : Nat) : s.Drops (t.enterGap n) := by
  unfold State.enterGap
  have h1 : s.Drops (t.setFrd { t.frd with classifier := .gap, imageRun := 0 }) :=
    h.then (t.orderView_frames rfl rfl rfl)
  simp only []
  split
  · exact h1
  · rename_i f hf
    split
    · exact h1.freeSliver f
    · split
      · exact h1
      · exact h1.closeFrame hf _ _ _

theorem State.Drops.frdInImage (h : s.Drops t) (n : Nat) (c : LineClass) (g : List Nat) :
    s.Drops (t.frdInImage n c g) := by
  unfold State.frdInImage
  extract_lets _ probe run
  have h1 : s.Drops (t.setFrd { t.frd with probe := probe, gapRun := run }) :=
    h.then (t.orderView_frames rfl rfl rfl)
  split
  · exact h1.enterGap n
  · exact h1

end frames

/-! ## A line at the Frame Detector -/

/-- A line of a scan is being offered: the tables are in order and no line is in flight. -/
structure Offered (s : State) : Prop where
  order : TablesInOrder s
  phase : s.orderView.phase = .scanning
  flight : s.orderView.flight = none

/-- At line n the table has room for a frame, or its current frame is not due for a forced close (R52). -/
def State.Spare (s : State) (n : Nat) : Prop :=
  s.frd.table.length < Config.frameCapacity ∨
    s.frd.currentFrame.map (·.top) ≠ some (n + 1 - s.setup.mfl) ∨ n + 1 < s.setup.mfl

section offered

variable {s t : State}

theorem Offered.drops (h : Offered s) (d : s.Drops t) : Offered t :=
  ⟨h.order.drops d, d.phase.trans h.phase, d.flight.trans h.flight⟩

theorem Offered.then (h : Offered s) (e : t.orderView = s.orderView) : Offered t := h.drops (.of_view e)

theorem OrderView.Ok.create {v : OrderView} (h : v.Ok) (hp : v.phase = .scanning) (hf : v.flight = none)
    (hc : v.count < Config.frameCapacity) :
    ({ v with count := v.count + 1, demand := tableGrade (v.count + 1) } : OrderView).Ok := by
  obtain ⟨⟨f1, f2, f3, f4, f5, f6, f7⟩, p, l⟩ := h
  refine ⟨⟨hc, rfl, fun _ b => absurd hf b, f4, f5, ?_, ?_⟩, p, ⟨l.chain, l.newest, l.flight⟩⟩
  · intro a; rw [hp] at a; rcases a with a | a <;> cases a
  · intro a; exact absurd hp (f7 a).2.1

theorem OrderView.Ok.number {v : OrderView} (h : v.Ok) :
    ({ v with numbers := v.numbers ++ [v.nextNumber], nextNumber := v.nextNumber + 1 } : OrderView).Ok := by
  obtain ⟨⟨f1, f2, f3, f4, f5, f6, f7⟩, p, l⟩ := h
  refine ⟨⟨f1, f2, f3, ?_, ?_, f6, f7⟩, p, ⟨l.chain, l.newest, l.flight⟩⟩
  · refine List.pairwise_append.mpr ⟨f4, List.pairwise_singleton _ _, fun a ha b hb => ?_⟩
    rw [List.mem_singleton.mp hb]; exact f5 a ha
  · intro n hn
    rcases List.mem_append.mp hn with hn | hn
    · exact Nat.lt_succ_of_lt (f5 n hn)
    · rw [List.mem_singleton.mp hn]; exact Nat.lt_succ_self _

theorem State.postTable_frd (s : State) : s.postTable.frd = s.frd :=
  congrArg Still.frd (s.still_post .table _)

theorem State.orderView_createFrame (s : State) (top : Nat) : (s.createFrame top).orderView =
    { s.orderView with count := s.orderView.count + 1, demand := tableGrade (s.orderView.count + 1) } := by
  unfold State.createFrame
  simp only []
  rw [State.orderView_postTable, State.orderView_setFrd]
  simp only [State.setCoe_frd, List.length_append, List.length_cons, List.length_nil, Nat.zero_add]
  have : ({ s.frd with table := s.frd.table ++ [⟨top, s.coe.promote.active, .zero, none, none⟩] } : Frd).numbers =
      s.frd.numbers := by
    simp [Frd.numbers]
  rw [State.setCoe_coe, this]
  rfl

/-- A frame is created where the table has room (R43). -/
theorem Offered.createFrame (h : Offered s) (hc : s.frd.table.length < Config.frameCapacity) (top : Nat) :
    Offered (s.createFrame top) := by
  have e := s.orderView_createFrame top
  refine ⟨tablesInOrder_iff.mpr ?_, ?_, ?_⟩
  · rw [e]; exact (tablesInOrder_iff.mp h.order).create h.phase h.flight hc
  · rw [e]; exact h.phase
  · rw [e]; exact h.flight

theorem State.createFrame_current (s : State) (top : Nat) :
    (s.createFrame top).frd.currentFrame.map (·.top) = some top := by
  unfold State.createFrame
  simp only []
  rw [State.postTable_frd]
  simp [Frd.currentFrame]

theorem Offered.completeProbe (h : Offered s) {f : Frame} (hf : s.frd.currentFrame = some f)
    (hp : f.probed = none) : Offered (s.completeProbe f) := by
  have ht := Frd.table_of_current hf
  unfold State.completeProbe
  extract_lets p frd s1
  have e1 : s1.orderView = { s.orderView with
      numbers := s.orderView.numbers ++ [s.orderView.nextNumber], nextNumber := s.orderView.nextNumber + 1 } := by
    have en : s.frd.numbers = s.frd.table.dropLast.filterMap fun f => f.probed.map (·.number) := by
      unfold Frd.numbers
      conv => lhs; rw [ht]
      simp [hp]
    have ec : frd.table.length = s.frd.table.length := by
      conv => rhs; rw [ht]
      simp [frd, Frd.setCurrent]
    have ef : frd.numbers = s.frd.numbers ++ [s.frd.nextNumber] := by
      rw [en]
      simp [frd, Frd.setCurrent, Frd.numbers, p, probedOf]
    show ({ s.orderView with count := frd.table.length, numbers := frd.numbers, nextNumber := _ } : OrderView) = _
    rw [ec, ef]; rfl
  have h1 : Offered s1 := by
    refine ⟨tablesInOrder_iff.mpr ?_, ?_, ?_⟩
    · rw [e1]; exact (tablesInOrder_iff.mp h.order).number
    · rw [e1]; exact h.phase
    · rw [e1]; exact h.flight
  exact (h1.then (s1.orderView_setScn rfl Iff.rfl rfl rfl)).drops (State.Drops.offerFrd (.refl _))

/-- A report placed by the Frame Detector frees a frame, or leaves the current one with its first line. -/
theorem State.offerFrd_current (s : State) : s.offerFrd.frd.table.length < s.frd.table.length ∨
    s.offerFrd.frd.currentFrame.map (·.top) = s.frd.currentFrame.map (·.top) := by
  unfold State.offerFrd State.offerBy State.joinWaitList
  split
  · unfold State.placeFrd
    split
    · exact .inr rfl
    · rename_i n payload rest e
      refine .inr ?_
      show (setOpenReported n s.frd.table).getLast?.map _ = s.frd.table.getLast?.map _
      unfold setOpenReported
      rw [List.getLast?_map]
      cases s.frd.table.getLast? with
      | none => rfl
      | some f =>
        cases hp : f.probed with
        | none => simp [hp]
        | some p => by_cases hn : p.number = n <;> simp [hp, hn]
    · rename_i n rest e
      unfold State.placeFrameDone
      split
      · rw [(State.ringRelease_keeps _).1]
        unfold State.freeFrame
        rw [State.postTable_frd]
        simp only [State.setFrd_frd, State.pushReport, State.setLif_frd]
        cases hl : s.frd.currentFrame with
        | none =>
          have ht : s.frd.table = [] := List.getLast?_eq_none_iff.mp hl
          exact .inr (by simp [Frd.currentFrame, ht])
        | some f =>
          have ht := Frd.table_of_current hl
          generalize (fun f : Frame => !(decide (f.probed.map (·.number) = some n))) = q
          simp only [Frd.currentFrame]
          rw [ht, List.filter_append]
          cases hq : q f with
          | false =>
            left
            have := List.length_filter_le q s.frd.table.dropLast
            simp only [List.length_append, List.filter_cons, hq, List.filter_nil, List.length_nil, List.length_cons]
            simp only [Bool.false_eq_true, if_false, List.length_nil]
            omega
          | true => right; simp [hq]
      · exact .inr rfl
  · split
    · exact .inr rfl
    · exact .inr rfl

theorem State.Spare.mono (h : s.Spare n) (hs : t.setup = s.setup) (hc : t.frd.table.length ≤ s.frd.table.length)
    (hl : t.frd.table.length < Config.frameCapacity ∨
      t.frd.currentFrame.map (·.top) = s.frd.currentFrame.map (·.top)) : t.Spare n := by
  unfold State.Spare at *
  rw [hs]
  rcases hl with hl | hl
  · exact .inl hl
  · rw [hl]; rcases h with h | h
    · exact .inl (Nat.lt_of_le_of_lt hc h)
    · exact .inr h

theorem Offered.frdProbeStage (h : Offered s) (n : Nat) (hs : s.Spare n) :
    Offered (s.frdProbeStage n) ∧ (s.frdProbeStage n).Spare n ∧ (s.frdProbeStage n).setup = s.setup := by
  unfold State.frdProbeStage
  split
  · rename_i f hf
    split
    · rename_i hc
      refine ⟨h.completeProbe hf hc.2.1, ?_⟩
      have ht := Frd.table_of_current hf
      have hcap := h.order.frameCount
      have hlen : s.frd.table.length = s.frd.table.dropLast.length + 1 := by
        conv => lhs; rw [ht]
        simp
      unfold State.completeProbe
      extract_lets p frd s1
      have e := State.offerFrd_current (s1.setScn { s1.scn with frames := s1.scn.frames + 1 })
      have d : State.Drops _ (s1.setScn { s1.scn with frames := s1.scn.frames + 1 }).offerFrd :=
        State.Drops.offerFrd (.refl _)
      have e1 : (s1.setScn { s1.scn with frames := s1.scn.frames + 1 }).frd.table.length = s.frd.table.length := by
        rw [hlen]
        simp [s1, frd, Frd.setCurrent]
      have e2 : (s1.setScn { s1.scn with frames := s1.scn.frames + 1 }).frd.currentFrame.map (·.top) =
          s.frd.currentFrame.map (·.top) := by
        rw [hf]; simp [s1, frd, Frd.setCurrent, Frd.currentFrame]
      have e3 : (s1.setScn { s1.scn with frames := s1.scn.frames + 1 }).setup = s.setup := rfl
      generalize s1.setScn { s1.scn with frames := s1.scn.frames + 1 } = y at e d e1 e2 e3
      have hst : y.offerFrd.setup = s.setup := d.setup.trans e3
      refine ⟨hs.mono hst (by rw [← e1]; exact d.count) ?_, hst⟩
      rcases e with e | e
      · exact .inl (by omega)
      · exact .inr (e.trans e2)
    · exact ⟨h, hs, rfl⟩
  · exact ⟨h, hs, rfl⟩

theorem Offered.forceClose (h : Offered s) {f : Frame} (hf : s.frd.currentFrame = some f) (p : Probed) (n : Nat)
    (hc : s.frd.table.length < Config.frameCapacity) : Offered (s.forceClose f p n) := by
  have d : s.Drops (s.closeFrame f p n .forced) := (State.Drops.refl s).closeFrame hf p n .forced
  have hl : (s.closeFrame f p n .forced).frd.table.length < Config.frameCapacity :=
    Nat.lt_of_le_of_lt d.count hc
  have h1 := h.drops d
  unfold State.forceClose
  generalize s.closeFrame f p n .forced = u at hl h1 ⊢
  have h2 : Offered (u.setFrd { u.frd with gapRun := 0, probe := [] }) := h1.then (u.orderView_frames rfl rfl rfl)
  exact h2.createFrame hl _

theorem Offered.frdCloseStage (h : Offered s) (n : Nat) (hs : s.Spare n) : Offered (s.frdCloseStage n) := by
  unfold State.frdCloseStage
  split
  · rename_i f hf
    split
    · split
      · exact h.drops ((State.Drops.refl s).freeSliver _)
      · exact h
    · split
      · exact h
      · split
        · exact h.drops ((State.Drops.refl s).closeFrame hf _ _ _)
        · split
          · rename_i hm
            refine h.forceClose hf _ n ?_
            rcases hs with hs | hs | hs
            · exact hs
            · rw [hf] at hs
              exact absurd (by simp; omega) hs
            · omega
          · exact h
  · exact h

theorem Offered.frdInGap (h : Offered s) (hc : s.frd.table.length < Config.frameCapacity)
    (hu : SetupInRange s.setup) (n : Nat) (c : LineClass) (g : List Nat) :
    Offered (s.frdInGap n c g) ∧ (s.frdInGap n c g).Spare n := by
  unfold State.frdInGap
  extract_lets base run frd0 frd
  have h0 : ∀ x : Frd, x.table.length = s.frd.table.length → x.numbers = s.frd.numbers →
      x.nextNumber = s.frd.nextNumber → Offered (s.setFrd x) :=
    fun x e1 e2 e3 => h.then (s.orderView_frames e1 e2 e3)
  split
  · split
    · have h1 := h0 { frd with classifier := .image, gapRun := 0 } rfl rfl rfl
      have hc1 : (s.setFrd { frd with classifier := .image, gapRun := 0 }).frd.table.length <
        Config.frameCapacity := hc
      have hu1 : (s.setFrd { frd with classifier := .image, gapRun := 0 }).setup = s.setup := rfl
      generalize s.setFrd { frd with classifier := .image, gapRun := 0 } = u at h1 hc1 hu1 ⊢
      have e := u.createFrame_current (n + 1 - s.setup.imageMin)
      have es := (u.createFrame (n + 1 - s.setup.imageMin)).orderView_setup
      rw [u.orderView_createFrame] at es
      replace es : u.setup = (u.createFrame (n + 1 - s.setup.imageMin)).setup := es
      refine ⟨h1.createFrame hc1 _, ?_⟩
      unfold State.Spare
      rw [e, ← es, hu1]
      have h1 := hu.imageMin
      have h2 := hu.mfl
      by_cases hn : n + 1 < s.setup.mfl
      · exact .inr (.inr hn)
      · refine .inr (.inl ?_)
        intro hx
        have := Option.some.inj hx
        omega
    · exact ⟨h0 _ rfl rfl rfl, .inl hc⟩
  · exact ⟨h0 _ rfl rfl rfl, .inl hc⟩

/-- The tables stay in order at a line that the Frame Detector handles (R36 to R55). -/
theorem Offered.frdLine (h : Offered s) (hc : s.frd.table.length < Config.frameCapacity)
    (hu : SetupInRange s.setup) (n : Nat) (px : List Pixel) : Offered (s.frdLine n px) := by
  unfold State.frdLine
  extract_lets u win greens mG cls inGap s3 s4 s6
  have h3 : Offered s3 ∧ s3.Spare n := by
    have : ∀ c : Classifier, Offered (match c with
        | .gap => s.frdInGap n cls greens
        | .image => s.frdInImage n cls greens) ∧ State.Spare (match c with
        | .gap => s.frdInGap n cls greens
        | .image => s.frdInImage n cls greens) n := by
      intro c
      cases c
      · exact h.frdInGap hc hu n cls greens
      · have d := (State.Drops.refl s).frdInImage n cls greens
        exact ⟨h.drops d, .inl (Nat.lt_of_le_of_lt d.count hc)⟩
    exact this inGap
  clear_value s3
  have h4 : Offered s4 ∧ s4.Spare n := by
    by_cases hg : inGap = .gap ∧ cls = .gapLike
    · have e : s4 = s3.setFrd (s3.frd.updateBases (mean u (win.map (·.r.toNat))) mG
          (mean u (win.map (·.ir.toNat)))) := if_pos hg
      rw [e]
      exact ⟨h3.1.then (s3.orderView_frames rfl rfl rfl), h3.2⟩
    · have e : s4 = s3 := if_neg hg
      rw [e]; exact h3
  clear_value s4
  obtain ⟨h5, hs, -⟩ := h4.1.frdProbeStage n h4.2
  have h6 : Offered s6 := h5.frdCloseStage n hs
  clear_value s6
  have h7 : Offered (s6.setFrd { s6.frd with handled := n }) := h6.then (s6.orderView_frames rfl rfl rfl)
  generalize s6.setFrd { s6.frd with handled := n } = x at h7 ⊢
  unfold State.refreshSettled
  repeat' split
  all_goals first | exact h7 | exact h7.then rfl

end offered

/-! ## Regions -/

theorem PlacesOk.put {l : List Region} (h : PlacesOk (l.map Region.place)) {r : Region}
    (h1 : r.slot < Config.regionCapacity) (h2 : r.last + 1 - r.first ≤ Config.maxRegionHeight) :
    PlacesOk ((putRegion r l).map Region.place) := by
  have mem : ∀ (l : List Region) (q : Region), q ∈ putRegion r l → q = r ∨ q ∈ l := by
    intro l
    induction l with
    | nil => intro q hq; exact .inl (List.mem_singleton.mp hq)
    | cons a l ih =>
      intro q hq
      unfold putRegion at hq
      split at hq
      · rcases List.mem_cons.mp hq with rfl | hq
        · exact .inr (List.mem_cons_self ..)
        · exact (ih q hq).imp_right (List.mem_cons_of_mem _)
      · split at hq
        · rcases List.mem_cons.mp hq with rfl | hq
          · exact .inl rfl
          · exact .inr (List.mem_cons_of_mem _ hq)
        · exact (List.mem_cons.mp hq).imp_right id
  have sorted : ∀ l : List Region, l.Pairwise (fun a b => a.slot < b.slot) →
      (putRegion r l).Pairwise fun a b => a.slot < b.slot := by
    intro l
    induction l with
    | nil => intro _; exact List.pairwise_singleton _ _
    | cons a l ih =>
      intro hp
      obtain ⟨p1, p2⟩ := List.pairwise_cons.mp hp
      unfold putRegion
      split
      · rename_i hlt
        refine List.pairwise_cons.mpr ⟨fun q hq => ?_, ih p2⟩
        rcases mem l q hq with rfl | hq
        · exact hlt
        · exact p1 q hq
      · split
        · rename_i he
          exact List.pairwise_cons.mpr ⟨fun q hq => by rw [← he]; exact p1 q hq, p2⟩
        · refine List.pairwise_cons.mpr ⟨fun q hq => ?_, hp⟩
          rcases List.mem_cons.mp hq with rfl | hq
          · omega
          · have := p1 q hq; omega
  have hs : l.Pairwise fun a b => a.slot < b.slot := by
    have := h.slots
    rw [List.pairwise_map] at this
    exact this
  refine ⟨List.pairwise_map.mpr (sorted l hs), fun x hx => ?_⟩
  obtain ⟨q, hq, rfl⟩ := List.mem_map.mp hx
  rcases mem l q hq with rfl | hq
  · exact ⟨h1, h2⟩
  · exact h.bounds _ (List.mem_map_of_mem hq)

section regions

variable {s t : State}

/-- A line of a scan is being offered, to a table of at most so many frames under this setup. -/
structure Roomy (c : Nat) (u : Setup) (s : State) : Prop where
  offered : Offered s
  count : s.frd.table.length ≤ c
  setup : s.setup = u

variable {c : Nat} {u : Setup}

theorem Roomy.drops (h : Roomy c u s) (d : s.Drops t) : Roomy c u t :=
  ⟨h.offered.drops d, Nat.le_trans d.count h.count, Eq.trans d.setup h.setup⟩

theorem Roomy.then (h : Roomy c u s) (e : t.orderView = s.orderView) : Roomy c u t := h.drops (.of_view e)

/-- The tables stay in order when regions in order replace those of the Region Table. -/
theorem Roomy.setRegions (h : Roomy c u s) {x : Dfd} (hx : PlacesOk (x.regions.map Region.place)) :
    Roomy c u (s.setDfd x) := by
  have o := tablesInOrder_iff.mp h.offered.order
  exact ⟨⟨tablesInOrder_iff.mpr ⟨⟨o.frames.1, o.frames.2, o.frames.3, o.frames.4, o.frames.5, o.frames.6,
    o.frames.7⟩, hx, ⟨o.lines.1, o.lines.2, o.lines.3⟩⟩, h.offered.phase, h.offered.flight⟩, h.count, h.setup⟩

theorem Roomy.places (h : Roomy c u s) : PlacesOk (s.dfd.regions.map Region.place) :=
  (tablesInOrder_iff.mp h.offered.order).places

/-- Regions leave the table. -/
theorem State.drops_setDfd (s : State) {x : Dfd}
    (h : (x.regions.map Region.place).Sublist (s.dfd.regions.map Region.place)) : s.Drops (s.setDfd x) := by
  unfold State.Drops
  rw [State.orderView_setDfd]
  exact { OrderView.Drops.refl _ with regions := h }

theorem State.Drops.endRegion (h : s.Drops t) (r : Region) (add : Tally → Tally) : s.Drops (t.endRegion r add) := by
  unfold State.endRegion
  have h1 := h.then (t.orderView_charge r.first add)
  exact h1.trans (State.drops_setDfd _ (List.filter_sublist.map _))

theorem Roomy.keepRegion (h : Roomy c u s) (tests : List TestSpan) {r : Region}
    (hr : r.slot < Config.regionCapacity) : Roomy c u (s.keepRegion tests r).1 := by
  unfold State.keepRegion
  split
  · exact h.drops ((State.Drops.refl s).endRegion r _)
  · exact h.setRegions (h.places.put hr (by omega))

theorem survivor_mem (r : Region) (l : List Region) : survivor r l ∈ r :: l := by
  unfold survivor
  induction l generalizing r with
  | nil => exact List.mem_singleton.mpr rfl
  | cons a l ih =>
    rw [List.foldl_cons]
    have := ih (if a.first < r.first then a else r)
    rcases List.mem_cons.mp this with e | e
    · rw [e]; split
      · exact List.mem_cons_of_mem _ (List.mem_cons_self ..)
      · exact List.mem_cons_self ..
    · exact List.mem_cons_of_mem _ (List.mem_cons_of_mem _ e)

theorem absorb_slot (l : List Region) (r : Region) : (l.foldl Region.absorb r).slot = r.slot := by
  induction l generalizing r with
  | nil => rfl
  | cons a l ih => rw [List.foldl_cons, ih]; rfl

/-- The tables stay in order when a run is tracked (R72 to R77). -/
theorem Roomy.trackRun (n : Nat) {acc : State × List TestSpan} (h : Roomy c u acc.1) (run : Run) :
    Roomy c u (State.trackRun n acc run).1 := by
  have slot : ∀ r ∈ acc.1.dfd.regions, r.slot < Config.regionCapacity := fun r hr =>
    (h.places.bounds _ (List.mem_map_of_mem hr)).1
  have met : ∀ r ∈ metRegions acc.1.dfd.regions acc.2 run, r ∈ acc.1.dfd.regions := fun r hr =>
    (List.mem_filter.mp hr).1
  unfold State.trackRun
  simp only []
  split
  · split
    · rename_i k hk
      have hk' : k < Config.regionCapacity := by
        have := List.mem_of_find?_eq_some hk
        exact List.mem_range.mp this
      exact h.setRegions (h.places.put hk' (by
        show n + 1 - n ≤ _
        simp only [Config.maxRegionHeight]; omega))
    · exact (h.then (State.orderView_charge _ _ _)).drops (.of_still (State.still_raise _ _))
  · rename_i r e
    exact h.keepRegion _ (slot r (met r (by rw [e]; exact List.mem_singleton.mpr rfl)))
  · rename_i r rest hne e
    refine Roomy.keepRegion ?_ _ ?_
    · exact h.drops (State.drops_setDfd _ (List.filter_sublist.map _))
    · show (List.foldl Region.absorb _ _).slot < _
      rw [absorb_slot]
      exact slot _ (met _ (by rw [e]; exact survivor_mem r rest))

theorem Roomy.trackRuns (n : Nat) (runs : List Run) {acc : State × List TestSpan} (h : Roomy c u acc.1) :
    Roomy c u (runs.foldl (State.trackRun n) acc).1 := by
  induction runs generalizing acc with
  | nil => exact h
  | cons r rs ih => exact ih (h.trackRun n r)

/-- The regions change one by one, keeping slot and lines. -/
theorem State.orderView_mapRegions (s : State) {x : Dfd} {g : Region → Region} (h1 : x.regions = s.dfd.regions.map g)
    (h2 : ∀ r, (g r).place = r.place) : (s.setDfd x).orderView = s.orderView := by
  rw [State.orderView_setDfd, h1, List.map_map]
  have : (Region.place ∘ g) = Region.place := funext h2
  rw [this]; rfl

theorem State.orderView_setRegionState (s : State) (slot : Nat) (st : RegionState) :
    (s.setDfd { s.dfd with regions := setRegionState slot st s.dfd.regions }).orderView = s.orderView :=
  s.orderView_mapRegions rfl fun r => by split <;> rfl

theorem State.Drops.repairTake (h : s.Drops t) : s.Drops t.repairTake := by
  unfold State.repairTake
  split
  · split
    · exact (h.then (t.orderView_setRegionState _ _)).then rfl
    · exact h.then rfl
  · exact h

theorem State.Drops.makeReady (h : s.Drops t) (r : Region) : s.Drops (t.makeReady r) := by
  unfold State.makeReady
  split
  · exact State.Drops.repairTake ((h.then (t.orderView_setRegionState r.slot .ready)).then rfl)
  · exact h.endRegion r _

theorem State.Drops.makeAllReady (h : s.Drops t) (l : List Region) : s.Drops (t.makeAllReady l) := by
  unfold State.makeAllReady State.postRepair
  refine State.Drops.then ?_ (State.orderView_post _ (by decide) _)
  generalize byFirst l = k
  induction k generalizing t with
  | nil => exact h
  | cons r k ih => exact ih (h.makeReady r)

theorem State.orderView_maskLine (s : State) (j : Nat) : (s.maskLine j).orderView = s.orderView := by
  unfold State.maskLine
  rw [State.orderView_mapRegions _ (g := id) (by simp) (fun _ => rfl), State.orderView_setRng]
  have : (writeMask (maskOf s.setup s.dfd.history j) j s.rng.lines).map (·.number) =
      s.rng.lines.map (·.number) := by
    unfold writeMask
    rw [List.map_map]
    exact List.map_congr_left fun l _ => by simp only [Function.comp_apply]; split <;> rfl
  simp only [this]; rfl

theorem State.orderView_maskLines (l : List Nat) (s : State) :
    (l.foldl State.maskLine s).orderView = s.orderView := by
  induction l generalizing s with
  | nil => rfl
  | cons a l ih => rw [List.foldl_cons, ih, s.orderView_maskLine]

theorem State.Drops.dfdLast (h : s.Drops t) (n : Nat) : s.Drops (t.dfdLast n) := by
  unfold State.dfdLast
  simp only []
  refine State.Drops.makeAllReady ?_ _
  generalize (List.range (n + 1 - t.dfd.nextMask)).map (t.dfd.nextMask + ·) = l
  have h1 : s.Drops (l.foldl State.maskLine t) := h.then (t.orderView_maskLines l)
  generalize l.foldl State.maskLine t = u at h1 ⊢
  exact h1.then (u.orderView_mapRegions (g := id) (by simp) fun _ => rfl)

/-- The tables stay in order at a line that the Defect Detector handles (R61 to R80). -/
theorem Roomy.dfdLine (h : Roomy c u s) (n a b : Nat) (px : List Pixel) :
    Roomy c u (s.dfdLine n a b px) := by
  unfold State.dfdLine
  extract_lets w s2 s3 d4 s4 s5 s6
  have h2 : Roomy c u s2.1 := by
    show Roomy c u (s.dfdRuns n a b px).1
    unfold State.dfdRuns
    simp only []
    refine Roomy.then (s := if Config.runsPerLine < (lineRuns s.setup a b px).length then
      s.setFrd (s.frd.charge n Tally.addCoalesced) else s) ?_
      (State.orderView_mapRegions _ (g := id) (by simp) fun _ => rfl)
    split
    · exact h.then (s.orderView_charge _ _)
    · exact h
  have h3 : Roomy c u s3 := h2.trackRuns n s2.2
  clear_value s3
  have h4 : Roomy c u s4 := h3.then (s3.orderView_mapRegions (g := Region.settleLine) rfl fun r => by
    unfold Region.settleLine
    repeat' split
    all_goals rfl)
  clear_value s4
  have h5 : Roomy c u s5 := by
    by_cases hd : w.d ≤ n
    · have e : s5 = s4.maskLine (n - w.d) := if_pos hd
      rw [e]; exact h4.then (s4.orderView_maskLine _)
    · have e : s5 = s4 := if_neg hd
      rw [e]; exact h4
  clear_value s5
  have h6 : Roomy c u s6 := h5.drops ((State.Drops.refl s5).makeAllReady _)
  clear_value s6
  split
  · exact h6.drops ((State.Drops.refl s6).dfdLast n)
  · exact h6

end regions

end Sys2Proof.Machine
end

