-- ==== Sys2Proof/Laws/OrderRows.lean ====
section
/-! SUPPORT. The tables of a scan stay in order, row by row: the line of a scan, the settling of the device, the
Scan Controller, the carriage, the commands and the arbiter. -/

namespace Sys2Proof.Machine

/-! ## Changes of the view -/

section changes

variable {s t : State}

theorem State.orderView_setOp (s : State) (op : OpState) :
    (s.setOp op).orderView = { s.orderView with phase := op.phase } := by
  unfold State.orderView
  rw [State.still_setOp]; rfl

theorem State.orderView_setOp_same (s : State) {op : OpState} (h : op.phase = s.scn.op.phase) :
    (s.setOp op).orderView = s.orderView := State.orderView_of_still (s.still_setOp_same h)

/-- A part of a scan in which nothing is captured is entered; with the tables empty where it is none. -/
theorem OrderView.Ok.leave {v : OrderView} (h : v.Ok) {p : Phase} (hp : p = .rest ∨ p = .draining)
    (hc : p = .rest → v.count = 0) : ({ v with phase := p } : OrderView).Ok := by
  obtain ⟨⟨f1, f2, -, f4, f5, -, f7⟩, q, l⟩ := h
  have n1 : p ≠ .scanning := by rcases hp with e | e <;> rw [e] <;> decide
  have n2 : p ≠ .preparing := by rcases hp with e | e <;> rw [e] <;> decide
  refine ⟨⟨f1, f2, fun a => absurd a n1, f4, f5, ?_, fun a => ⟨n2, n1, (f7 a).2.2⟩⟩, q, ⟨l.chain, ?_, ?_⟩⟩
  · intro a
    rcases a with a | a
    · exact hc a
    · exact absurd a n2
  · exact fun a => absurd a n1
  · exact fun a => absurd a n1

theorem TablesInOrder.setOp_leave (h : TablesInOrder s) {op : OpState}
    (hp : op.phase = .rest ∨ op.phase = .draining) (hc : op.phase = .rest → s.frd.table = []) :
    TablesInOrder (s.setOp op) := by
  rw [tablesInOrder_iff, State.orderView_setOp]
  exact (tablesInOrder_iff.mp h).leave hp fun e => List.length_eq_zero_iff.mpr (hc e)

theorem TablesInOrder.setOp_same (h : TablesInOrder s) {op : OpState} (e : op.phase = s.scn.op.phase) :
    TablesInOrder (s.setOp op) := h.of_view (s.orderView_setOp_same e)

/-- Outside SCANNING the order reads nothing of the Capture Unit. -/
theorem TablesInOrder.setCap_off (h : TablesInOrder s) (hp : s.scn.op.phase ≠ .scanning) (x : Cap) :
    TablesInOrder (s.setCap x) := by
  have o := tablesInOrder_iff.mp h
  have n : s.orderView.phase ≠ .scanning := hp
  rw [tablesInOrder_iff]
  exact ⟨⟨o.frames.1, o.frames.2, fun a => absurd a n, o.frames.4, o.frames.5, o.frames.6, o.frames.7⟩, o.places,
    ⟨o.lines.chain, fun a => absurd a n, fun a => absurd a n⟩⟩

/-- Another setup, or other reports: the order reads of the Scan Controller whether a drain is over. -/
theorem TablesInOrder.setScn (h : TablesInOrder s) {x : Scn} (h1 : x.op.phase = s.scn.op.phase)
    (h2 : .scanEnd ∈ x.due ∨ x.drain.framesEmpty = true →
      s.scn.op ≠ .preparing ∧ s.scn.op ≠ .scanning ∧ s.frd.table = []) : TablesInOrder (s.setScn x) := by
  have o := tablesInOrder_iff.mp h
  rw [tablesInOrder_iff]
  have e : (s.setScn x).orderView = { s.orderView with setup := x.setup, ended := (s.setScn x).orderView.ended } := by
    show ({ s.orderView with phase := x.op.phase, setup := x.setup, ended := (s.setScn x).orderView.ended } :
      OrderView) = _
    rw [h1]; rfl
  rw [e]
  refine ⟨⟨o.frames.1, o.frames.2, o.frames.3, o.frames.4, o.frames.5, o.frames.6, ?_⟩, o.places,
    ⟨o.lines.chain, o.lines.newest, o.lines.flight⟩⟩
  intro k
  have k1 : (decide (.scanEnd ∈ x.due) || x.drain.framesEmpty) = true := k
  rw [Bool.or_eq_true, decide_eq_true_eq] at k1
  obtain ⟨a, b, c⟩ := h2 k1
  refine ⟨?_, ?_, List.length_eq_zero_iff.mpr c⟩
  · exact fun e => a (OpState.phase_preparing.mp e)
  · exact fun e => b (OpState.phase_scanning.mp e)

/-- The reports that are due change, and none of them becomes a SCAN_END. -/
theorem TablesInOrder.setScn_due (h : TablesInOrder s) {x : Scn} (h1 : x.op = s.scn.op)
    (h2 : .scanEnd ∈ x.due → .scanEnd ∈ s.scn.due) (h3 : x.drain = s.scn.drain) : TablesInOrder (s.setScn x) := by
  refine h.setScn (by rw [h1]) fun k => h.ended ?_
  rw [h3] at k
  exact k.imp_left h2

theorem TablesInOrder.setLif (h : TablesInOrder s) (x : Lif) : TablesInOrder (s.setLif x) := h.of_view rfl
theorem TablesInOrder.setCoe (h : TablesInOrder s) (x : Coe) : TablesInOrder (s.setCoe x) := h.of_view rfl
theorem TablesInOrder.setPins (h : TablesInOrder s) (x : Pins) : TablesInOrder (s.setPins x) := h.of_view rfl

theorem TablesInOrder.raise (h : TablesInOrder s) (c : Cause) : TablesInOrder (s.raise c) :=
  h.of_still (s.still_raise c)

end changes

/-! ## The line of a scan -/

section line

variable {s t : State}

/-- The completed line joins the ring as its newest: it was the line in flight (R21, R22). -/
theorem TablesInOrder.appended (h : TablesInOrder s) (ho : s.scn.op = .scanning) {f : Flight}
    (hf : s.cap.inFlight = some f) {c : Cap} (h1 : c.inFlight = none) (h2 : c.nextLine = s.cap.nextLine)
    (px : List Pixel) : Offered ((s.setCap c).ringAppend f.number px) := by
  have o := tablesInOrder_iff.mp h
  have hp : s.orderView.phase = .scanning := by show s.scn.op.phase = _; rw [ho]; rfl
  have hv : s.orderView.flight = some f.number := by show s.cap.inFlight.map _ = _; rw [hf]; rfl
  have e : ((s.setCap c).ringAppend f.number px).orderView =
      { s.orderView with lines := s.orderView.lines ++ [f.number], flight := none } := by
    unfold State.ringAppend State.orderView
    simp only []
    rw [State.still_post]
    simp [Still.orderView, State.still, h1, h2, Trc.keep]
    rfl
  refine ⟨tablesInOrder_iff.mpr ?_, by rw [e]; exact hp, by rw [e]⟩
  rw [e]
  have hn := o.lines.newest hp
  have hl := o.lines.flight hp _ hv
  rw [hv] at hn
  refine ⟨⟨o.frames.1, o.frames.2, fun _ b => absurd rfl b, o.frames.4, o.frames.5, o.frames.6, o.frames.7⟩,
    o.places, ⟨?_, ?_, fun _ g hg => by cases hg⟩⟩
  · rw [List.isChain_append]
    refine ⟨o.lines.chain, List.isChain_singleton _, ?_⟩
    intro a ha b hb
    have := hn a (by simpa using ha)
    simp only [List.head?_cons, Option.mem_some_iff] at hb
    rw [← hb]; exact this.symm
  · intro _ l hl'
    rw [List.getLast?_append] at hl'
    simp at hl'
    rw [← hl']
    exact hl

theorem State.orderView_previewLine (s : State) (px : List Pixel) : (s.previewLine px).orderView = s.orderView := by
  unfold State.previewLine State.completePreviewRow
  simp only []
  repeat' split
  all_goals first | rfl | exact (State.orderView_of_still (State.still_raise _ _)).trans rfl

theorem State.orderView_previewTail (s : State) : s.previewTail.orderView = s.orderView := by
  unfold State.previewTail State.completePreviewRow
  simp only []
  repeat' split
  all_goals first | rfl | exact (State.orderView_of_still (State.still_raise _ _)).trans rfl

/-- A scan enters DRAINING (R153). -/
theorem TablesInOrder.drainStart (h : TablesInOrder s) : TablesInOrder s.drainStart := by
  unfold State.drainStart
  refine TablesInOrder.of_view ?_ (State.orderView_previewTail _)
  have h1 : TablesInOrder (s.setOp .draining) := h.setOp_leave (.inr rfl) (fun e => by cases e)
  have h2 : TablesInOrder (s.setOp .draining).stopOrder := h1.of_still (State.still_stopOrder _)
  exact h2.drops (State.drops_ringRelease _)

/-- The tables stay in order at a line of a scan (R4, R22, R28, R61, R153). -/
theorem TablesInOrder.scanLine (h : TablesInOrder s) (hu : SetupInRange s.setup) (ho : s.scn.op = .scanning)
    {f : Flight} (hf : s.cap.inFlight = some f) {c : Cap} (h1 : c.inFlight = none)
    (h2 : c.nextLine = s.cap.nextLine) (d : Bool) (raw : List Pixel) :
    TablesInOrder ((s.setCap c).scanLine d f.number raw) := by
  unfold State.scanLine
  extract_lets px s1 left c1 s2 c2 s3 baseR baseIR s4 s5
  have r1 : Roomy s.frd.table.length s.setup s1 := by
    refine ⟨h.appended ho hf h1 h2 px, ?_, ?_⟩
    · have e : s1.still.frd = s.frd := by
        show ((s.setCap c).ringAppend f.number px).still.frd = _
        unfold State.ringAppend
        rw [State.still_post]; rfl
      exact Nat.le_of_eq (congrArg (fun x => x.table.length) e)
    · show ((s.setCap c).ringAppend f.number px).still.scn.setup = _
      unfold State.ringAppend
      rw [State.still_post]; rfl
  have hc := h.frameRoom ho (by rw [hf]; exact Option.some_ne_none f)
  generalize s.frd.table.length = m at r1 hc
  clear_value s1
  have r2 : Roomy m s.setup s2 := r1.then (s1.orderView_setCap rfl rfl)
  clear_value s2
  have r3 : Roomy m s.setup s3 := by
    have e : Roomy m s.setup (s2.setScn { c2 with captured := c2.captured + 1 }) :=
      r2.then (s2.orderView_setScn rfl Iff.rfl rfl rfl)
    exact e.drops (State.drops_ringRelease _)
  clear_value s3
  have o4 : Offered s4 := by
    cases d
    · have k : Offered (s3.frdLine f.number px) := r3.offered.frdLine (Nat.lt_of_le_of_lt r3.count hc)
        (by rw [r3.setup]; exact hu) _ _
      have k1 : Roomy _ _ (s3.frdLine f.number px) := ⟨k, Nat.le_refl _, rfl⟩
      exact (k1.dfdLine _ _ _ _).offered
    · have k := r3.dfdLine f.number baseR baseIR px
      exact k.offered.frdLine (Nat.lt_of_le_of_lt k.count hc) (by rw [k.setup]; exact hu) _ _
  clear_value s4
  have o5 : Offered s5 := by
    have e : Offered (s4.previewLine px) := o4.then (s4.orderView_previewLine px)
    exact e.drops (State.drops_ringRelease _)
  split
  · exact o5.order.drainStart
  · exact o5.order

end line

/-! ## Repair, output and reports -/

section reports

variable {s t : State}

/-- A completed repair: its region leaves (R101). -/
theorem State.drops_finishRepair (s : State) (e : Repairing) : s.Drops (s.finishRepair e) := by
  unfold State.finishRepair
  extract_lets counts s1 d2 s2 s3 c4 s4
  have h1 : s.Drops s1 := by
    refine .of_view ?_
    rw [s.orderView_setRng]
    have k : (repairRing s.setup e s.rng.lines).map (·.number) = s.rng.lines.map (·.number) := by
      unfold repairRing
      rw [List.map_map]
      exact List.map_congr_left fun l _ => by simp only [Function.comp_apply]; split <;> rfl
    show ({ s.orderView with lines := (repairRing s.setup e s.rng.lines).map (·.number) } : OrderView) = _
    rw [k]; rfl
  clear_value s1
  have h2 : s.Drops s2 := by
    refine h1.then (s1.orderView_mapRegions (g := fun r =>
      if r.slot = e.slot then { r with repaired := some counts.1, unrepaired := some counts.2 } else r) rfl ?_)
    intro r; split <;> rfl
  clear_value s2
  have h3 : s.Drops s3 := by
    simp only [s3]
    split
    · exact h2.endRegion _ _
    · exact h2
  clear_value s3
  have h4 : s.Drops s4 := h3.then rfl
  clear_value s4
  have h5 : s.Drops s4.repairTake.postRepair :=
    h4.repairTake.then (State.orderView_post _ (by decide) _)
  exact h5.ringRelease

theorem State.orderView_refreshSettled (s : State) : s.refreshSettled.orderView = s.orderView := by
  unfold State.refreshSettled
  repeat' split
  all_goals rfl

theorem State.orderView_coeAdvance (h : s.coeAdvance = some t) : t.orderView = s.orderView := by
  unfold State.coeAdvance at h
  repeat' split at h
  all_goals cases h
  all_goals first | rfl | exact (State.orderView_refreshSettled _).trans rfl

theorem State.orderView_raiseNextRow (s : State) (n : Nat) :
    (s.setFrd { s.frd with table := raiseNextRow n s.frd.table }).orderView = s.orderView := by
  obtain ⟨g, e1, e2⟩ := raiseNextRow_eq n s.frd.table
  exact s.orderView_mapFrames e1 e2 rfl

theorem State.drops_takeImage {r : Record} (h : s.takeImage = some (r, t)) : s.Drops t := by
  unfold State.takeImage at h
  simp only [] at h
  repeat' split at h
  all_goals cases h
  · exact .of_view rfl
  · refine State.Drops.ringRelease ?_
    exact State.Drops.then (State.Drops.of_view (t := s.setCoe _) rfl) (State.orderView_raiseNextRow _ _)

theorem State.orderView_takePreview {r : Record} (h : s.takePreview = some (r, t)) :
    t.orderView = s.orderView := by
  unfold State.takePreview at h
  simp only [] at h
  repeat' split at h
  all_goals cases h
  all_goals rfl

theorem State.orderView_testMarker (h : s.testMarker = some t) : t.orderView = s.orderView := by
  unfold State.testMarker at h
  split at h
  · cases h
    exact s.orderView_setScn rfl (by simp) rfl rfl
  · cases h

theorem TablesInOrder.drainCheck (h : TablesInOrder s) (e : s.drainCheck = some t) : TablesInOrder t := by
  unfold State.drainCheck at e
  split at e
  · rename_i ho
    extract_lets d c1 s1 c2 s2 c at e
    have hempty : d.framesEmpty = true → s.frd.table = [] := by
      intro k
      simp only [d, State.drainNow, Bool.or_eq_true, List.isEmpty_iff] at k
      rcases k with k | k
      · exact (h.ended (.inr k)).2.2
      · exact k
    have step : ∀ x : Scn, x.op = s.scn.op → x.drain = d →
        (.scanEnd ∈ x.due → s.frd.table = []) → TablesInOrder (s.setScn x) := by
      intro x h1 h2 h3
      refine h.setScn (by rw [h1]) fun k => ?_
      rw [h2] at k
      rw [ho.1]
      refine ⟨by decide, by decide, ?_⟩
      rcases k with k | k
      · exact h3 k
      · exact hempty k
    have v2 : s2.orderView = s1.orderView := by
      simp only [s2]; split <;> rfl
    have hs2 : s2.scn = s1.scn := by simp only [s2]; split <;> rfl
    split at e
    · cases e
    · split at e
      · rename_i hall
        cases e
        have hn : s.frd.table = [] := hempty (by
          simp only [Drain.all, Bool.and_eq_true] at hall; tauto)
        refine TablesInOrder.of_view (s := s.setScn { c with
          endReason := some .complete, due := c.due ++ [.scanEnd] }) (step _ ?_ ?_ (fun _ => hn)) ?_
        · show c.op = _; simp only [c, hs2]; rfl
        · show c.drain = _; simp only [c, hs2]; rfl
        · simp only [s2]; split <;> rfl
      · rw [← Option.some.inj e]
        have h1 : TablesInOrder s1 := step { s.scn with drain := d } rfl rfl (fun k => (h.ended (.inl k)).2.2)
        exact h1.of_view v2
  · cases e

/-- A calibration run belongs to the operation states that have no scan. -/
theorem CaptureSafe.calPhase (h : CaptureSafe s) (hc : s.cap.cal ≠ none) : s.scn.op.phase = .rest := by
  rcases h.calRun hc with e | e <;> rw [e] <;> rfl

theorem TablesInOrder.placeCal (h : TablesInOrder s) (k : CaptureSafe s) : TablesInOrder s.placeCal := by
  unfold State.placeCal
  split
  · exact h
  · rename_i r hr
    extract_lets c1 s1
    have h1 : TablesInOrder s1 := h.of_view rfl
    split
    · rename_i run hrun
      have hp : s.scn.op.phase = .rest := k.calPhase (by rw [hrun]; exact Option.some_ne_none run)
      split
      · have h2 : TablesInOrder (s1.setCap (s1.cap.writeResults run (decide (r.outcome = .passed)))) :=
          h1.setCap_off (by show s.scn.op.phase ≠ _; rw [hp]; decide) _
        exact h2.setOp_same (by show _ = s.scn.op.phase; rw [hp]; rfl)
      · exact h1
    · exact h1

theorem TablesInOrder.placeCoe (h : TablesInOrder s) : TablesInOrder s.placeCoe := by
  unfold State.placeCoe
  split
  · rename_i n _
    exact h.drops (State.Drops.placeFrameDone
      (t := s.setCoe { s.coe with step := .idle, frame := none, segOffset := 0 }) (.of_view rfl) n)
  · exact h.setCoe _

theorem TablesInOrder.pushReport (h : TablesInOrder s) (r : Record) : TablesInOrder (s.pushReport r) := h.of_view rfl

theorem TablesInOrder.placeScn (h : TablesInOrder s) : TablesInOrder s.placeScn := by
  unfold State.placeScn
  split
  · exact h
  · rename_i rest e
    have k : .scanEnd ∈ rest → .scanEnd ∈ s.scn.due := fun k => by rw [e]; exact List.mem_cons_of_mem _ k
    split
    · exact (h.pushReport _).setScn_due rfl k rfl
    · exact h.setScn_due rfl k rfl
  · rename_i f rest e
    exact (h.pushReport _).setScn_due rfl (fun k => by
      show _ ∈ s.scn.due; rw [e]; exact List.mem_cons_of_mem _ k) rfl
  · rename_i rest e
    extract_lets c1 s1
    have h1 : TablesInOrder s1 := (h.pushReport _).setScn_due rfl (fun k => by
      show _ ∈ s.scn.due; rw [e]; exact List.mem_cons_of_mem _ k) rfl
    split
    · refine h1.setOp_leave (.inl rfl) fun _ => ?_
      exact (h.ended (.inl (by rw [e]; exact List.mem_cons_self ..))).2.2
    · exact h1

end reports

/-! ## Capture and tables together -/

/-- Capture is safe and the tables of a scan are in order. -/
structure Sound (s : State) : Prop where
  safe : CaptureSafe s
  order : TablesInOrder s

section sound

variable {s t : State}

theorem Sound.of_flags (h : Sound s) (e1 : t.captureView = s.captureView) (e2 : t.orderView = s.orderView) :
    Sound t := ⟨h.safe.of_view e1, h.order.of_view e2⟩

theorem Sound.setLif (h : Sound s) (x : Lif) : Sound (s.setLif x) := h.of_flags rfl rfl
theorem Sound.setPins (h : Sound s) (x : Pins) : Sound (s.setPins x) := h.of_flags rfl rfl

theorem Sound.raise (h : Sound s) (c : Cause) : Sound (s.raise c) := ⟨h.safe.raise c, h.order.raise c⟩

theorem Sound.place (h : Sound s) (p : Producer) : Sound (s.place p) := by
  refine ⟨h.safe.place p, ?_⟩
  cases p
  · exact h.order.placeCal h.safe
  · exact h.order.drops ((State.Drops.refl s).placeFrd)
  · exact h.order.placeCoe
  · exact h.order.placeScn

theorem Sound.joinWaitList (h : Sound s) (p : Producer) : Sound (s.joinWaitList p) := by
  unfold State.joinWaitList
  split
  · exact h
  · exact h.setLif _

theorem Sound.offer (h : Sound s) (p : Producer) : Sound (s.offer p) := by
  unfold State.offer State.offerBy
  split
  · exact h.place p
  · exact h.joinWaitList p

theorem Sound.giveRoom (h : Sound s) : Sound s.giveRoom := by
  unfold State.giveRoom
  split
  · exact h
  · rename_i p rest e
    extract_lets l1 s1
    have h1 : Sound s1 := Sound.place (h.setLif _) p
    split
    · exact h1.joinWaitList p
    · exact h1

theorem Sound.settleStep (h : Sound s) (e : s.settleStep = some t) : Sound t := by
  refine ⟨h.safe.settleStep e, ?_⟩
  rcases State.settleStep_cases e with k | k | k | ⟨p, -, rfl⟩ | ⟨k, rfl⟩
  · exact h.order.of_view (State.orderView_coeAdvance k)
  · exact h.order.of_view (State.orderView_testMarker k)
  · exact h.order.drainCheck k
  · exact (h.offer p).order
  · simp only [State.stoppingEnds, Bool.and_eq_true, decide_eq_true_eq] at k
    exact h.order.setOp_same (by rw [k.1.1.1]; rfl)

/-- The device settles with capture safe and the tables in order. -/
theorem Sound.settle (h : Sound s) : Sound s.settle :=
  State.settle_induct (fun _ _ => Sound.settleStep) h

end sound

/-! ## The Scan Controller -/

section scan

variable {s t : State}

theorem State.orderView_postOther (s : State) {src : Source} (h : src ≠ .table) (g : Grade) {v : OrderView}
    (e : s.orderView = v) : (s.post src g).orderView = v := (s.orderView_post h g).trans e

/-- What the clearing of a scan leaves of the view: no frame, no region, no line (R155). -/
theorem State.orderView_scanClear (s : State) : s.scanClear.orderView = { s.orderView with
    count := 0, numbers := [], demand := tableGrade 0, regions := [], lines := [], flight := none } := by
  unfold State.scanClear
  extract_lets s1 s2
  have v1 : s1.orderView = s.orderView := State.orderView_of_still (State.still_stopOrder s)
  clear_value s1
  have v2 : s2.orderView = { s.orderView with flight := none } := by
    rw [← v1]; rfl
  clear_value s2
  have v3 : s2.ringClear.orderView = { s.orderView with lines := [], flight := none } := by
    unfold State.ringClear
    rw [State.orderView_post _ (by decide), State.orderView_setRng, v2]; rfl
  generalize s2.ringClear = s3 at v3 ⊢
  have v4 : s3.frdClear.orderView = { s.orderView with
      count := 0, numbers := [], demand := tableGrade 0, lines := [], flight := none } := by
    unfold State.frdClear
    extract_lets c0 u0 c1 u1 c2 u2
    have w : u2.orderView = { s3.orderView with count := 0, numbers := [] } := rfl
    rw [State.orderView_postTable, w, v3]
  generalize s3.frdClear = s4 at v4 ⊢
  have v5 : s4.dfdClear.orderView = { s.orderView with
      count := 0, numbers := [], demand := tableGrade 0, regions := [], lines := [], flight := none } := by
    have w : s4.dfdClear.orderView = { s4.orderView with regions := [] } := rfl
    rw [w, v4]
  generalize s4.dfdClear = s5 at v5 ⊢
  have v6 : s5.rpeClear.orderView = s5.orderView := by
    unfold State.rpeClear
    rw [State.orderView_post _ (by decide)]; rfl
  have v7 : s5.rpeClear.coeClear.orderView = s5.rpeClear.orderView := rfl
  rw [v7, v6, v5]

/-- Once a scan is cleared, the tables are in order in every operation state that has no scan. -/
theorem State.order_scanClear (s : State) (x : Scn) {op : OpState} (h : op.phase = .rest) :
    TablesInOrder ((s.scanClear.setScn x).setOp op) := by
  have k := s.orderView_scanClear
  generalize s.scanClear = u at k ⊢
  rw [tablesInOrder_iff, State.orderView_setOp, h]
  have w : (u.setScn x).orderView = { u.orderView with
      setup := x.setup, phase := x.op.phase, ended := (u.setScn x).orderView.ended } := rfl
  rw [w, k]
  refine ⟨⟨Nat.zero_le _, rfl, ?_, List.Pairwise.nil, ?_, fun _ => rfl, fun _ => ⟨?_, ?_, rfl⟩⟩,
    ⟨List.Pairwise.nil, ?_⟩, ⟨List.isChain_nil, ?_, ?_⟩⟩
  all_goals intro a
  · cases a
  · intro k; cases k
  · cases a
  · cases a
  · intro k; cases k
  · cases a
  · cases a

theorem State.order_stopScan (s : State) (r : EndReason) : TablesInOrder (s.stopScan r) :=
  State.order_scanClear s _ rfl

theorem State.order_scanFault (s : State) (k : FaultKind) (n : Nat) : TablesInOrder (s.scanFault k n) :=
  State.order_scanClear s _ rfl

theorem TablesInOrder.endCalRun (h : TablesInOrder s) (hp : s.scn.op.phase ≠ .scanning) (o : CalOutcome) :
    TablesInOrder (s.endCalRun o) := by
  unfold State.endCalRun
  split
  · exact h.setCap_off hp _
  · exact h

theorem TablesInOrder.moveFault (h : TablesInOrder s) (ho : s.scn.op = .positioning) (k : FaultKind) :
    TablesInOrder (s.moveFault k) := by
  unfold State.moveFault
  extract_lets f s1
  have e1 : s1.scn = s.scn := s.endCalRun_scn _
  have h1 : TablesInOrder s1 := h.endCalRun (by rw [ho]; decide) _
  clear_value s1
  have h2 : TablesInOrder (s1.setScn { s1.scn with due := s1.scn.due ++ [.fault f] }) :=
    h1.setScn_due rfl (by simp) rfl
  exact h2.setOp_same (by show _ = s1.scn.op.phase; rw [e1, ho]; rfl)

theorem TablesInOrder.endStopAct (h : TablesInOrder s) : TablesInOrder s.endStopAct := by
  unfold State.endStopAct
  extract_lets s1
  have h1 : TablesInOrder s1 := (h.of_still (State.still_stopAtOnce s)).raise _
  split
  · rename_i ho
    exact h1.moveFault ((State.op_raise _ _).trans ho) _
  · split
    · exact State.order_scanFault _ _ _
    · exact h1

theorem TablesInOrder.homeFailed (h : TablesInOrder s) : TablesInOrder s.homeFailed := by
  have h1 : TablesInOrder s.stopAtOnce := h.of_still (State.still_stopAtOnce s)
  unfold State.homeFailed
  simp only []
  split
  · rename_i ho
    exact h1.moveFault ho _
  · exact h1

/-- A calibration run ends early and the carriage is ordered to stop (R13). -/
theorem TablesInOrder.stopRun (h : TablesInOrder s) (ho : s.scn.op.phase = .rest) (o : CalOutcome) :
    TablesInOrder (((s.endCalRun o).stopOrder).setOp .stopping) := by
  have h1 : TablesInOrder (s.endCalRun o).stopOrder :=
    (h.endCalRun (by rw [ho]; decide) o).of_still (State.still_stopOrder _)
  exact h1.setOp_same (by rw [State.stopOrder_scn, State.endCalRun_scn, ho]; rfl)

theorem TablesInOrder.lateLine (h : TablesInOrder s) : TablesInOrder s.lateLine := by
  unfold State.lateLine
  split
  · exact h
  · extract_lets s1
    have o1 : s1.scn.op = s.scn.op := State.op_raise _ _
    split
    · exact State.order_scanFault _ _ _
    · rename_i hn
      have hp : s.scn.op.phase ≠ .scanning := fun e => hn (OpState.phase_scanning.mp e)
      have h1 : TablesInOrder s1 := (h.setCap_off hp _).raise _
      split
      · rename_i ho
        exact h1.stopRun (by rw [o1, ho]; rfl) _
      · exact h1

/-- With no demand at S0 the Frame Table has room for a frame (R42, R55, R135). -/
theorem TablesInOrder.frameSpace (h : TablesInOrder s) (hr : s.trc.resolved ≠ .s0) :
    s.frd.table.length < Config.frameCapacity := by
  have e : s.trc.table ≠ .s0 := by
    intro e
    apply hr
    unfold Trc.resolved
    rw [e]
    cases s.trc.repair <;> cases s.trc.ring <;> cases s.trc.cap <;> rfl
  rw [h.frameDemand] at e
  by_contra hn
  have hc := h.frameCount
  apply e
  have : s.frd.table.length = Config.frameCapacity := by omega
  rw [this]; rfl

/-- A line starts: the one that follows the newest of the ring, with room for a frame (R1, R42). -/
theorem TablesInOrder.lineStep (h : TablesInOrder s) (hr : s.cap.gateOpen = true → s.trc.resolved ≠ .s0) :
    TablesInOrder s.lineStep := by
  unfold State.lineStep
  split
  · rename_i hg
    split
    · exact h.lateLine
    · rename_i hi
      have hn : s.cap.inFlight = none := by simpa using hi
      have o := tablesInOrder_iff.mp h
      have fl : s.orderView.flight = none := by show s.cap.inFlight.map _ = _; rw [hn]; rfl
      rw [tablesInOrder_iff]
      have e : (s.setCap s.cap.startScanLine).orderView =
          { s.orderView with flight := some s.orderView.nextLine, nextLine := s.orderView.nextLine + 1 } := rfl
      rw [e]
      refine ⟨⟨o.frames.1, o.frames.2, fun _ _ => h.frameSpace (hr hg), o.frames.4, o.frames.5, o.frames.6,
        o.frames.7⟩, o.places, ⟨o.lines.chain, ?_, ?_⟩⟩
      · intro a l hl
        have := o.lines.newest a l hl
        rw [fl] at this
        exact this
      · intro _ f hf
        rw [← Option.some.inj hf]
  · exact h

end scan

/-! ## The carriage -/

section motion

variable {s t : State}

theorem CaptureSafe.gateGrade (h : CaptureSafe s) (g : s.cap.gateOpen = true) : s.trc.resolved ≠ .s0 :=
  (h.gateOk g).2.2.2

theorem Sound.stepOnce (h : Sound s) : TablesInOrder s.stepOnce := by
  have h1 : TablesInOrder (s.setTrc { s.trc with position := stepped s.trc.position s.trc.dir }) := h.order.of_still rfl
  exact h1.lineStep fun g => h.safe.gateGrade g

/-- The approach reaches the resume position: a scan that has no line yet, or one that goes on (R142, R152). -/
theorem Sound.captureResume (h : Sound s) (hm : s.trc.motion = .approaching) (hb : s.trc.braking = false) :
    TablesInOrder s.captureResume := by
  obtain ⟨hs, hr⟩ := h.safe.run (.inl hm) hb
  have hop := h.safe.transport hs
  unfold State.captureResume
  extract_lets c1 s1 c2 s2 c3 s3 s4
  have e3 : s3.orderView = s.orderView := by
    simp only [s3]
    split
    · exact (s2.orderView_setScn rfl Iff.rfl rfl rfl).trans rfl
    · rfl
  have o3 : s3.scn.op = s.scn.op := by simp only [s3]; split <;> rfl
  have g3 : s3.cap.gateOpen = true := by simp only [s3]; split <;> rfl
  have i3 : s3.cap.inFlight = s.cap.inFlight := by simp only [s3]; split <;> rfl
  have r3 : s3.trc.resolved = s.trc.resolved := by simp only [s3]; split <;> rfl
  have h3 : TablesInOrder s3 := h.order.of_view e3
  have l3 : s3.rng.lines = s.rng.lines := by simp only [s3]; split <;> rfl
  clear_value s3
  have o4 : s4.scn.op = .scanning := by
    simp only [s4]
    split
    · exact State.op_setOp _ _
    · rename_i hn
      rcases hop with e | e
      · exact absurd (o3.trans e) hn
      · exact o3.trans e
  have v4 : s4.captureView = { s3.captureView with op := .scanning } := by
    simp only [s4]
    split
    · exact State.view_setOp _ _
    · rename_i hn
      have : s3.scn.op = .scanning := by
        rcases hop with e | e
        · exact absurd (o3.trans e) hn
        · exact o3.trans e
      have q : s3.captureView.op = .scanning := this
      rw [← q]
  have g4 : s4.cap.gateOpen = true := (congrArg CaptureView.gateOpen v4).trans g3
  have t4 : s4.trc = s3.trc := congrArg CaptureView.trc v4
  have c4 : s4.cap = s3.cap := by
    simp only [s4]
    split
    · unfold State.setOp; rw [State.evalHalted_form]; rfl
    · rfl
  cases hf : s.cap.inFlight with
  | some f =>
    have e : s4.lineStep = s4.lateLine := by
      unfold State.lineStep
      rw [if_pos g4, c4, i3, hf]; rfl
    rw [e]
    unfold State.lateLine
    rw [c4, i3, hf]
    simp only []
    rw [if_pos o4]
    exact State.order_scanFault _ _ _
  | none =>
    refine TablesInOrder.lineStep ?_ (fun _ => by rw [t4, r3]; exact hr)
    simp only [s4]
    split
    · rename_i ho
      have e0 : s.scn.op = .preparing := o3.symm.trans ho
      have o := tablesInOrder_iff.mp h3
      have cnt : s3.orderView.count = 0 := List.length_eq_zero_iff.mpr (h3.noFrames (by rw [ho]; rfl))
      have lin : s3.orderView.lines = [] := by
        show s3.rng.lines.map _ = _
        rw [l3, h.safe.empty (by rw [e0]; rfl)]; rfl
      have fl : s3.orderView.flight = none := by show s3.cap.inFlight.map _ = _; rw [i3, hf]; rfl
      have en : s3.orderView.ended ≠ true := fun a => (o.frames.ended a).1 (by
        show s3.scn.op.phase = _; rw [ho]; rfl)
      rw [tablesInOrder_iff, State.orderView_setOp]
      refine ⟨⟨o.frames.1, o.frames.2, fun _ a => absurd fl a, o.frames.4, o.frames.5, fun _ => cnt,
        fun a => absurd a en⟩, o.places, ⟨o.lines.chain, ?_, ?_⟩⟩
      · intro _ l hl
        rw [show ({ s3.orderView with phase := OpState.scanning.phase } : OrderView).lines = [] from lin] at hl
        cases hl
      · intro _ f' hf'
        rw [show ({ s3.orderView with phase := OpState.scanning.phase } : OrderView).flight = none from fl] at hf'
        cases hf'
    · exact h3

theorem Sound.homingStep (h : Sound s) : TablesInOrder s.homingStep := by
  have h1 := h.stepOnce
  unfold State.homingStep
  generalize s.stepOnce = s1 at h1
  simp only []
  split
  · have h2 : ∀ x, TablesInOrder (s1.setTrc { s1.trc with homing := x }) := fun _ => h1.of_still rfl
    split
    · exact (h2 _).homeFailed
    · exact h2 _
  · exact h1

theorem Sound.motionStep (h : Sound s) (hb : s.trc.braking = false) : TablesInOrder s.motionStep := by
  unfold State.motionStep
  split
  · exact h.order
  · exact h.homingStep
  · simp only []
    split
    · exact h.stepOnce.of_still (State.still_moveArrived _)
    · exact h.stepOnce
  · simp only []
    split
    · exact h.stepOnce.of_still (State.still_beginApproach _)
    · exact h.stepOnce
  · rename_i hm
    have h1 : Sound (s.setTrc { s.trc with position := stepped s.trc.position s.trc.dir }) :=
      ⟨h.safe.setTrc_same rfl rfl rfl rfl rfl, h.order.of_still rfl⟩
    simp only []
    split
    · exact h1.captureResume hm hb
    · exact h1.order.lineStep fun g => h1.safe.gateGrade g
  · exact h.stepOnce

theorem TablesInOrder.startInterval (h : TablesInOrder s) (e : Nat) : TablesInOrder (s.startInterval e) := by
  unfold State.startInterval
  split
  · exact h
  · exact h.of_still rfl

theorem TablesInOrder.rangeEnd (h : TablesInOrder s) : TablesInOrder s.rangeEnd := by
  unfold State.rangeEnd
  split
  · exact h.of_still (State.still_moveArrived _)
  · exact h.of_still (State.still_stopEvent _)
  · exact h.of_still (State.still_stopEvent _)
  · exact h
  · exact h
  · exact h

theorem TablesInOrder.homeArrives (h : TablesInOrder s) : TablesInOrder s.homeArrives := by
  unfold State.homeArrives
  refine h.of_still ?_
  simp only [State.still_moveComplete]
  rfl

theorem Sound.intervalExpires (h : Sound s) (e : Nat) : Sound (s.intervalExpires e) := by
  refine ⟨h.safe.intervalExpires e, ?_⟩
  unfold State.intervalExpires
  split
  · exact h.order
  · rename_i hb
    have hb1 : s.trc.braking = false := by
      simp only [Bool.or_eq_true, decide_eq_true_eq, not_or] at hb
      simpa using hb.1
    repeat' split
    · rename_i hm
      exact (h.captureResume hm.1 hb1).startInterval e
    · exact h.order.endStopAct
    · exact h.order.rangeEnd
    · exact (h.motionStep hb1).startInterval e

theorem Sound.brakingExpires (h : Sound s) : Sound s.brakingExpires := by
  refine ⟨h.safe.brakingExpires, ?_⟩
  unfold State.brakingExpires
  split
  · exact h.order
  · split
    · exact h.order.endStopAct
    · split
      · exact h.order.of_still (State.still_stopEvent _)
      · extract_lets s1 x s2
        have h1 : TablesInOrder s1 := h.stepOnce
        clear_value s1
        have h2 : TablesInOrder s2 := h1.of_still rfl
        split
        · exact h2.of_still (State.still_stopEvent _)
        · exact h2

theorem Sound.holdExpires (h : Sound s) : Sound s.holdExpires := by
  refine ⟨h.safe.holdExpires, ?_⟩
  unfold State.holdExpires
  split
  · exact h.order
  · simp only []
    repeat' split
    all_goals first
      | exact h.order.of_still rfl
      | exact h.order.of_still (State.still_beginBacktrack _)

theorem Sound.rampStep (h : Sound s) : Sound (s.setTrc s.trc.rampStepEnds) := by
  refine ⟨h.safe.rampStep, h.order.of_view (s.orderView_setTrc ?_)⟩
  unfold Trc.rampStepEnds Trc.afterRamp
  simp only []
  repeat' split
  all_goals rfl

theorem Sound.homeRises (h : Sound s) : Sound s.homeRises := by
  refine ⟨h.safe.homeRises, ?_⟩
  unfold State.homeRises
  simp only []
  split
  · exact (h.order.setPins _).homeArrives
  · exact h.order.setPins _

theorem Sound.homeFalls (h : Sound s) : Sound s.homeFalls := by
  refine ⟨h.safe.homeFalls, ?_⟩
  unfold State.homeFalls
  simp only []
  repeat' split
  all_goals exact h.order.of_view rfl

theorem Sound.endRises (h : Sound s) : Sound s.endRises := by
  refine ⟨h.safe.endRises, ?_⟩
  unfold State.endRises
  simp only []
  split
  · exact h.order.setPins _
  · exact (h.order.setPins _).endStopAct

theorem Sound.homeLimit (h : Sound s) : Sound s.homeLimit := by
  refine ⟨h.safe.homeLimit, ?_⟩
  unfold State.homeLimit
  repeat' split
  · exact h.order.homeFailed
  · exact (h.intervalExpires 0).order
  · exact h.order
  · exact h.order

theorem Sound.endFell (h : Sound s) (b : Bool) : Sound (s.endFell b) := by
  unfold State.endFell
  split
  · exact h.setPins _
  · exact h

end motion

/-! ## Calibration lines, scan starts and resets -/

section starts

variable {s t : State}

theorem TablesInOrder.calLine (h : TablesInOrder s) (hp : s.scn.op.phase ≠ .scanning) (raw : List Pixel) :
    TablesInOrder (s.calLine raw) := by
  unfold State.calLine
  split
  · exact h
  · simp only []
    repeat' split
    all_goals first
      | exact h
      | exact h.setCap_off hp _

/-- What the pixels of an arrival make of the line in flight (R2). -/
theorem Cap.takePixels_cases (c : Cap) (w : Nat) (px : List Pixel) :
    ((c.takePixels w px).2 = none ∧ (c.takePixels w px).1.inFlight.map (·.number) = c.inFlight.map (·.number) ∨
      ∃ f g, c.inFlight = some f ∧ (c.takePixels w px).2 = some g ∧ g.number = f.number ∧
        (c.takePixels w px).1.inFlight = none) ∧ (c.takePixels w px).1.nextLine = c.nextLine := by
  unfold Cap.takePixels
  split
  · exact ⟨.inl ⟨rfl, rfl⟩, rfl⟩
  · rename_i f hf
    simp only []
    split
    · exact ⟨.inr ⟨f, _, hf, rfl, rfl, rfl⟩, rfl⟩
    · refine ⟨.inl ⟨rfl, ?_⟩, rfl⟩
      rw [hf]; rfl

theorem Sound.pixelsArrive (h : Sound s) (hu : SetupInRange s.setup) (d : Bool) (px : List Pixel) :
    Sound (s.pixelsArrive d px) := by
  refine ⟨h.safe.pixelsArrive d px, ?_⟩
  obtain ⟨k, k2⟩ := s.cap.takePixels_cases s.setup.w px
  unfold State.pixelsArrive
  simp only []
  generalize s.cap.takePixels s.setup.w px = taken at k k2 ⊢
  rcases k with ⟨k1, k3⟩ | ⟨f, g, k1, k3, k4, k5⟩
  · rw [k1]
    exact h.order.of_view (s.orderView_setCap k3 k2)
  · rw [k3]
    simp only []
    split
    · rename_i ho
      rw [k4]
      exact h.order.scanLine hu ho k1 k5 k2 d _
    · rename_i hn
      have hp : s.scn.op.phase ≠ .scanning := fun e => hn (OpState.phase_scanning.mp e)
      have h1 := h.order.setCap_off hp taken.1
      split
      · exact h1.calLine hp _
      · exact h1

theorem TablesInOrder.startScan (h : TablesInOrder s) (k : CaptureSafe s) (ho : s.scn.op = .idle)
    (hd : .scanEnd ∉ s.scn.due) : TablesInOrder s.startScan := by
  unfold State.startScan
  extract_lets u s1 s2
  have ht : s.frd.table = [] := h.noFrames (by rw [ho]; rfl)
  have hl : s.rng.lines = [] := k.empty (by rw [ho]; rfl)
  have h2 : TablesInOrder s2 := by
    rw [tablesInOrder_iff]
    have e : s2.orderView = { s.orderView with
        phase := .preparing, ended := decide (.scanEnd ∈ s.scn.due) || false, count := 0, numbers := []
        nextNumber := 1, demand := .s3, regions := [], lines := [], nextLine := 0 } := by
      have w : ∀ v : State, v = (s1.setCoe (s.coe.started u)).setTrc (s.trc.started u) →
          (v.setOp .preparing).orderView = { v.orderView with phase := .preparing } :=
        fun v _ => v.orderView_setOp _
      have w1 := w _ rfl
      have w2 : s2.orderView = _ := w1
      rw [w2]
      simp [State.orderView, Still.orderView, State.still, s1, Scn.started, Cap.started, Frd.started, Trc.started,
        Trc.powerOn, Frd.numbers, ht, hl, Drain.clear, Cap.lampOn, apply_ite]
    rw [e]
    refine ⟨⟨Nat.zero_le _, rfl, ?_, List.Pairwise.nil, ?_, fun _ => rfl, ?_⟩, ⟨List.Pairwise.nil, ?_⟩,
      ⟨List.isChain_nil, ?_, ?_⟩⟩
    all_goals intro a
    · cases a
    · intro k; cases k
    · rw [Bool.or_false, decide_eq_true_eq] at a; exact absurd a hd
    · intro k; cases k
    · cases a
    · cases a
  split
  · exact h2.of_still (State.still_releaseRunUp _)
  · exact h2

theorem State.order_powerOn (pins : Pins) (q : List Instr) : TablesInOrder (State.powerOn pins q) where
  frameCount := Nat.zero_le _
  frameDemand := rfl
  frameRoom := fun e => by cases e
  numbers := List.Pairwise.nil
  nextNumber := fun _ e => by cases e
  noFrames := fun _ => rfl
  ended := fun _ => ⟨OpState.noConfusion, OpState.noConfusion, rfl⟩
  regionCount := Nat.zero_le _
  slots := List.Pairwise.nil
  regions := fun _ e => by cases e
  lines := List.isChain_nil
  newest := fun e => by cases e
  flight := fun e => by cases e

theorem State.order_softReset (s : State) : TablesInOrder s.softReset where
  frameCount := Nat.zero_le _
  frameDemand := rfl
  frameRoom := fun e => by cases e
  numbers := List.Pairwise.nil
  nextNumber := fun _ e => by cases e
  noFrames := fun _ => rfl
  ended := fun _ => ⟨OpState.noConfusion, OpState.noConfusion, rfl⟩
  regionCount := Nat.zero_le _
  slots := List.Pairwise.nil
  regions := fun _ e => by cases e
  lines := List.isChain_nil
  newest := fun e => by cases e
  flight := fun e => by cases e

end starts

/-! ## Commands, dispatch, the arbiter and the other rows -/

section rows

variable {s t : State}

theorem TablesInOrder.setOp_rest (h : TablesInOrder s) (e : s.scn.op.phase = .rest) {op : OpState}
    (k : op.phase = .rest) : TablesInOrder (s.setOp op) := h.setOp_same (k.trans e.symm)

theorem TablesInOrder.takeMove (h : TablesInOrder s) (ho : s.scn.op = .idle) (c : Cap) (n : Nat) :
    TablesInOrder ((s.setCap c).takeMove n) := by
  have h1 : TablesInOrder (s.setCap c) := h.setCap_off (by rw [ho]; decide) c
  have h2 : TablesInOrder ((s.setCap c).setOp .positioning) :=
    h1.setOp_rest (by show s.scn.op.phase = _; rw [ho]; rfl) rfl
  unfold State.takeMove
  simp only []
  split
  · exact h2.of_still rfl
  · exact h2.of_still (State.still_beginMove _ n)

theorem TablesInOrder.abortNow (h : TablesInOrder s) : TablesInOrder s.abortNow := by
  unfold State.abortNow
  split
  · rename_i ho; exact h.stopRun (by rw [ho]; rfl) _
  · rename_i ho; exact h.stopRun (by rw [ho]; rfl) _
  · exact State.order_stopScan _ _
  · exact State.order_stopScan _ _
  · split
    · exact State.order_stopScan _ _
    · exact h
  · rename_i ho; exact h.setOp_rest (by rw [ho]; rfl) rfl
  · exact h
  · exact h

/-- Another setup, with the Scan Controller's reports as they were. -/
theorem TablesInOrder.setSetup (h : TablesInOrder s) (u : Setup) :
    TablesInOrder (s.setScn { s.scn with setup := u }) := h.setScn_due rfl id rfl

theorem Sound.act (h : Sound s) {k : Kind} (p : List Byte) (hk : s.refusesNow k = false) :
    Sound (s.act k p).state := by
  have hs := h.safe.act p hk
  have ho := h.order
  refine ⟨hs, ?_⟩
  simp only [State.refusesNow, Bool.or_eq_false_iff, Bool.not_eq_false'] at hk
  obtain ⟨hk, he⟩ := hk
  have idle : (∀ o, k.takenIn o = true → o = .idle) → s.scn.op = .idle := fun f => f _ hk
  clear hs
  cases k
  · exact ho
  · exact ho
  · exact ho.of_view rfl
  · exact (Sound.settle ⟨h.safe.abortNow, ho.abortNow⟩).order
  · simp only [State.act, State.actSetup, State.answer]
    split
    · exact ho
    · have h1 := ho.setSetup (setupOf p).clamped
      split
      · exact h1
      · exact h1.of_view rfl
  · simp only [State.act, State.actProfile, State.answer]
    split
    · exact ho.of_view rfl
    · exact ho
  · simp only [State.act, State.actFormatRule, State.answer]
    split
    · exact ho
    · exact ho.of_view rfl
  · simp only [State.act, State.actScanStart, State.answer]
    split
    · exact ho
    · exact ho.startScan h.safe (idle (fun o => by cases o <;> decide))
        (Scn.noEnd (by simpa [Kind.heldByEnd] using he))
  · simp only [State.act, State.actMark, State.answer]
    split
    · exact ho
    · refine (Sound.settle ⟨?_, ?_⟩).order
      · exact h.safe.imagePath (ImagePath.start.setScn rfl rfl rfl)
      · exact ho.setScn_due rfl id rfl
  · exact ho.of_view (State.orderView_post _ (by decide) _)
  · simp only [State.act, State.actLamp, State.answer]
    split
    · obtain ⟨-, l2, -, -⟩ := s.cap.lampOn_view
      refine ho.of_view (s.orderView_setCap (by rw [l2]) ?_)
      unfold Cap.lampOn; split <;> rfl
    · exact ho.of_view rfl
  · have hp : s.scn.op.phase = .rest := by
      generalize s.scn.op = o at hk
      cases o <;> first | rfl | cases hk
    have h1 : TablesInOrder (s.setOp .positioning) := ho.setOp_rest hp rfl
    have h2 : TablesInOrder ((s.setOp .positioning).setTrc { s.trc with valid := false }) := by
      refine h1.of_view (State.orderView_setTrc _ ?_)
      unfold State.setOp; rw [State.evalHalted_form]; rfl
    simp only [State.act, State.actHome, State.answer]
    split
    · exact h2.of_still rfl
    · exact h2.of_still (State.still_beginHoming _)
  · simp only [State.act, State.actMove, State.answer]
    split
    · exact ho.takeMove (idle (fun o => by cases o <;> decide)) s.cap _
    · exact ho
  · exact ho.of_view rfl
  · exact ho.of_view rfl
  · simp only [State.act, State.actCalRun, State.answer]
    split
    · exact ho
    · split
      · exact ho
      · exact ho.takeMove (idle (fun o => by cases o <;> decide)) _ _
  · simp only [State.act, State.actCalLoad, State.answer]
    split
    · exact ho
    · refine ho.of_view (s.orderView_setCap ?_ ?_) <;>
      · unfold Cap.loadTable
        split <;> rfl
  · simp only [State.act, State.actCalRead, State.answer]
    split <;> exact ho
  · simp only [State.act, State.actCauseEnable, State.answer, State.enableCauses]
    split <;> exact ho.of_view rfl
  · simp only [State.act, State.actCauseClear, State.answer, State.clearCauses]
    split <;> exact ho.of_view rfl

theorem Sound.judgeRecord (h : Sound s) (r : Record) : Sound (s.judgeRecord r).state := by
  rcases State.judgeRecord_cases s r with ⟨p, e⟩ | ⟨k, -, hk, -, e⟩ <;> rw [e]
  · exact h
  · exact h.act r.payload hk

theorem Sound.dispatch (h : Sound s) (r : Record) : Sound (s.dispatch r) := by
  have h1 := h.judgeRecord r
  unfold State.dispatch
  simp only []
  split
  · unfold State.freeSlot
    split
    · exact h1.setLif _
    · exact (h1.setLif _).setLif _
  · exact h1

theorem Sound.dispatchWaiting (h : Sound s) : Sound s.dispatchWaiting := by
  unfold State.dispatchWaiting
  repeat' split
  · exact h.dispatch _
  · exact h
  · exact h

theorem Sound.receiveGood (h : Sound s) (r : Record) : Sound (s.receiveGood r) := by
  unfold State.receiveGood
  simp only []
  split
  · exact (h.setLif _).raise _
  · exact ((h.setLif _).setLif _).dispatchWaiting

theorem Sound.chooseData (h : Sound s) : Sound s.chooseData := by
  unfold State.chooseData
  split
  · exact (((h.setLif _).setLif _).giveRoom).settle
  · split
    · rename_i e
      have h1 : Sound _ := ⟨h.safe.imagePath (ImagePath.takeImage e), h.order.drops (State.drops_takeImage e)⟩
      exact (h1.setLif _).settle
    · split
      · rename_i e
        exact ((h.of_flags (State.view_takePreview e) (State.orderView_takePreview e)).setLif _).settle
      · exact h

theorem Sound.chooseUnsolicited (h : Sound s) : Sound s.chooseUnsolicited := by
  unfold State.chooseUnsolicited
  split
  · split
    · exact (h.setLif _).setLif _
    · exact (h.setLif _).chooseData
  · exact h.chooseData

theorem Sound.arbitrate (h : Sound s) : Sound s.arbitrate := by
  unfold State.arbitrate
  split
  · exact h
  · split
    · exact ((h.setLif _).setLif _).dispatchWaiting
    · split
      · exact h
      · exact h.chooseUnsolicited

theorem Sound.finish (h : Sound s) : Sound s.finish := h.settle.arbitrate

theorem State.sound_powerOn (pins : Pins) (q : List Instr) : Sound (State.powerOn pins q) :=
  ⟨CaptureSafe.powerOn pins q, State.order_powerOn pins q⟩

theorem State.sound_softReset (s : State) : Sound s.softReset := ⟨s.safe_softReset, s.order_softReset⟩

theorem Sound.recordEnds (h : Sound s) : Sound s.recordEnds := by
  unfold State.recordEnds
  repeat' split
  · exact h
  · exact s.sound_softReset
  · exact (h.setLif _).arbitrate

theorem Sound.linkError (h : Sound s) (e : LinkError) : Sound (s.linkError e) :=
  ((h.setLif _).raise _).arbitrate

theorem Sound.recordArrives (h : Sound s) (r : Record) : Sound (s.recordArrives r) :=
  (h.receiveGood r).arbitrate

theorem Sound.takeByte (h : Sound s) (b : Byte) : Sound (s.takeByte b) := by
  unfold State.takeByte State.headerDone
  simp only []
  repeat' split
  all_goals first
    | exact h
    | exact h.setLif _
    | exact h.linkError _
    | exact h.recordArrives _

theorem Sound.takeBytes (h : Sound s) (bs : List Byte) : Sound (s.takeBytes bs) := by
  induction bs generalizing s with
  | nil => exact h
  | cons b bs ih => exact ih (h.takeByte b)

theorem Sound.commandRow (h : Sound s) (k t : Byte) (p : List Byte) : Sound (s.commandRow k t p) := by
  unfold State.commandRow
  split
  · exact h.linkError _
  · exact h.recordArrives _

theorem Sound.holderLeaves (h : Sound s) : Sound s.holderLeaves := by
  refine ⟨h.safe.holderLeaves, ?_⟩
  unfold State.holderLeaves
  split
  · simp only []
    split
    · exact State.order_stopScan _ _
    · exact (h.order.setPins _).raise _
  · exact h.order

theorem Sound.warmupEnds (h : Sound s) : Sound s.warmupEnds := by
  refine ⟨h.safe.warmupEnds, ?_⟩
  unfold State.warmupEnds
  split
  · simp only []
    repeat' split
    · exact h.order.of_still (State.still_releaseRunUp _)
    · exact h.order.of_view rfl
    · exact h.order.of_view rfl
  · exact h.order

theorem Sound.beginDarkCapture (h : Sound s) (hc : s.cap.cal.map (·.phase) = some .darkSettle) :
    Sound (s.setCap s.cap.beginDarkCapture) := ⟨h.safe.beginDarkCapture hc, h.order.of_view rfl⟩

/-- A calibration line starts only in a calibration run, outside a scan (R9). -/
theorem Sound.calTimerEnds (h : Sound s) : Sound s.calTimerEnds := by
  refine ⟨h.safe.calTimerEnds, ?_⟩
  unfold State.calTimerEnds
  split
  · rename_i hm
    split
    · exact h.order.lateLine
    · exact h.order.setCap_off (by rw [h.safe.calPhase (h.safe.calTimer hm)]; decide) _
  · exact h.order

theorem Sound.transferEnds (h : Sound s) (x : AfeTransfer) (n : Option AfeByte) (d : Byte) :
    Sound (s.transferEnds x n d) := by
  unfold State.transferEnds
  extract_lets c1 s1 s2
  have h1 : Sound s1 := h.of_flags rfl rfl
  have h2 : Sound s2 := by
    simp only [s2]
    split
    · exact h1.raise _
    · exact h1
  split
  · refine Sound.arbitrate ?_
    unfold State.freeSlot
    split
    · exact h2.setLif _
    · exact (h2.setLif _).setLif _
  · exact h2.arbitrate

theorem Sound.finishRepair (h : Sound s) (e : Repairing) : Sound (s.finishRepair e) :=
  ⟨h.safe.imagePath (ImagePath.start.finishRepair e), h.order.drops (s.drops_finishRepair e)⟩

theorem Sound.lateLine (h : Sound s) : Sound s.lateLine := ⟨h.safe.lateLine, h.order.lateLine⟩

end rows

end Sys2Proof.Machine
end

