-- ==== Sys2Proof/WellFormed.lean ====
section
/-! DEFINITION. What a command's operands must satisfy to name an event that can occur. exec gives a
meaning to every term all the same; these checks say which terms the spec speaks of. -/

namespace Sys2Proof

/-- The twenty command kinds (R196). -/
def commandKinds : List Byte :=
  [0x01#8, 0x02#8, 0x03#8, 0x04#8, 0x08#8, 0x09#8, 0x0A#8, 0x0B#8, 0x0C#8, 0x0D#8,
   0x10#8, 0x11#8, 0x12#8, 0x14#8, 0x15#8, 0x18#8, 0x19#8, 0x1A#8, 0x1C#8, 0x1D#8]

/-- A good record has a payload of at most 1,024 bytes (R166). -/
def payloadFits (payload : List Byte) : Bool := payload.length ≤ Config.receiveLimit

/-- A line brings at least one pixel: a line is 64 pixels or more (R2). -/
def pixelsArrive (pixels : List Pixel) : Bool := !pixels.isEmpty

/-- The operands name an event that can occur. -/
def Instr.wellFormed : Instr → Bool
  | .powerOn => true
  | .resetPin => true
  | .recordReceived bytes => !bytes.isEmpty
  | .interByteTimeout => true
  | .identify _ p => payloadFits p
  | .status _ p => payloadFits p
  | .softReset _ p => payloadFits p
  | .softResetTakesEffect => true
  | .abort _ p => payloadFits p
  | .setup _ p => payloadFits p
  | .profile _ p => payloadFits p
  | .formatRule _ p => payloadFits p
  | .scanStart _ p => payloadFits p
  | .mark _ p => payloadFits p
  | .speedCap _ p => payloadFits p
  | .lamp _ p => payloadFits p
  | .home _ p => payloadFits p
  | .move _ p => payloadFits p
  | .afeWrite _ p => payloadFits p
  | .afeRead _ p => payloadFits p
  | .calRun _ p => payloadFits p
  | .calLoad _ p => payloadFits p
  | .calRead _ p => payloadFits p
  | .causeEnable _ p => payloadFits p
  | .causeClear _ p => payloadFits p
  | .unknownKind k _ p => payloadFits p && !commandKinds.contains k
  | .recordSent => true
  | .linkHoldActive => true
  | .linkHoldInactive => true
  | .holderRemoved => true
  | .holderInserted => true
  | .homeEdge => true
  | .homeReleased => true
  | .homeStepLimit => true
  | .endEdge => true
  | .motorStep _ elapsed => elapsed ≤ Config.rampStepMicros
  | .brakingStep _ => true
  | .holdTimerExpiry => true
  | .rampStepEnd => true
  | .watchdogExpiry => true
  | .lineComplete _ px => pixelsArrive px
  | .repairComplete => true
  | .warmupExpiry => true
  | .darkSettleEnd => true
  | .calLineTimer => true
  | .calLineComplete px => pixelsArrive px
  | .afeTransferComplete _ _ => true

end Sys2Proof
end

