-- ==== Sys2Proof/Laws/PerInstr.lean ====
section
/-! SUPPORT. Laws stated of every constructor of Instr. -/

namespace Sys2Proof.Laws.RowRecord

/-- The record that a command row stands for spells that row: a well-formed row and the record on the link
carry the same kind, tag and payload (R166, R170, R196). -/
def Statement (i : Instr) : Prop :=
  ∀ r, Machine.recordOf i = some r → i.wellFormed = true → Machine.rowOf r = i

/-- A kind that is no command kind decodes to none. -/
theorem unknown_kindOf {k : Byte} (h : k ∉ commandKinds) : Machine.kindOf k = none := by
  refine List.find?_eq_none.mpr fun x _ hx => h ?_
  have hk : Machine.Kind.code x = k := of_decide_eq_true hx
  subst hk
  cases x <;> decide

theorem powerOn : Statement (.powerOn) := fun _ h _ => nomatch h

theorem resetPin : Statement (.resetPin) := fun _ h _ => nomatch h

theorem recordReceived (bytes : List Byte) : Statement (.recordReceived bytes) := fun _ h _ => nomatch h

theorem interByteTimeout : Statement (.interByteTimeout) := fun _ h _ => nomatch h

theorem identify (tag : Byte) (payload : List Byte) : Statement (.identify tag payload) := by
  intro r h _
  cases h
  rfl

theorem status (tag : Byte) (payload : List Byte) : Statement (.status tag payload) := by
  intro r h _
  cases h
  rfl

theorem softReset (tag : Byte) (payload : List Byte) : Statement (.softReset tag payload) := by
  intro r h _
  cases h
  rfl

theorem softResetTakesEffect : Statement (.softResetTakesEffect) := fun _ h _ => nomatch h

theorem abort (tag : Byte) (payload : List Byte) : Statement (.abort tag payload) := by
  intro r h _
  cases h
  rfl

theorem setup (tag : Byte) (payload : List Byte) : Statement (.setup tag payload) := by
  intro r h _
  cases h
  rfl

theorem profile (tag : Byte) (payload : List Byte) : Statement (.profile tag payload) := by
  intro r h _
  cases h
  rfl

theorem formatRule (tag : Byte) (payload : List Byte) : Statement (.formatRule tag payload) := by
  intro r h _
  cases h
  rfl

theorem scanStart (tag : Byte) (payload : List Byte) : Statement (.scanStart tag payload) := by
  intro r h _
  cases h
  rfl

theorem mark (tag : Byte) (payload : List Byte) : Statement (.mark tag payload) := by
  intro r h _
  cases h
  rfl

theorem speedCap (tag : Byte) (payload : List Byte) : Statement (.speedCap tag payload) := by
  intro r h _
  cases h
  rfl

theorem lamp (tag : Byte) (payload : List Byte) : Statement (.lamp tag payload) := by
  intro r h _
  cases h
  rfl

theorem home (tag : Byte) (payload : List Byte) : Statement (.home tag payload) := by
  intro r h _
  cases h
  rfl

theorem move (tag : Byte) (payload : List Byte) : Statement (.move tag payload) := by
  intro r h _
  cases h
  rfl

theorem afeWrite (tag : Byte) (payload : List Byte) : Statement (.afeWrite tag payload) := by
  intro r h _
  cases h
  rfl

theorem afeRead (tag : Byte) (payload : List Byte) : Statement (.afeRead tag payload) := by
  intro r h _
  cases h
  rfl

theorem calRun (tag : Byte) (payload : List Byte) : Statement (.calRun tag payload) := by
  intro r h _
  cases h
  rfl

theorem calLoad (tag : Byte) (payload : List Byte) : Statement (.calLoad tag payload) := by
  intro r h _
  cases h
  rfl

theorem calRead (tag : Byte) (payload : List Byte) : Statement (.calRead tag payload) := by
  intro r h _
  cases h
  rfl

theorem causeEnable (tag : Byte) (payload : List Byte) : Statement (.causeEnable tag payload) := by
  intro r h _
  cases h
  rfl

theorem causeClear (tag : Byte) (payload : List Byte) : Statement (.causeClear tag payload) := by
  intro r h _
  cases h
  rfl

theorem unknownKind (kind tag : Byte) (payload : List Byte) : Statement (.unknownKind kind tag payload) := by
  intro r h hw
  cases h
  have hk := unknown_kindOf (by
    have h2 := (Bool.and_eq_true_iff.mp hw).2
    simpa using h2)
  simp only [Machine.rowOf, hk]

theorem recordSent : Statement (.recordSent) := fun _ h _ => nomatch h

theorem linkHoldActive : Statement (.linkHoldActive) := fun _ h _ => nomatch h

theorem linkHoldInactive : Statement (.linkHoldInactive) := fun _ h _ => nomatch h

theorem holderRemoved : Statement (.holderRemoved) := fun _ h _ => nomatch h

theorem holderInserted : Statement (.holderInserted) := fun _ h _ => nomatch h

theorem homeEdge : Statement .homeEdge := fun _ h _ => nomatch h

theorem homeReleased : Statement (.homeReleased) := fun _ h _ => nomatch h

theorem homeStepLimit : Statement (.homeStepLimit) := fun _ h _ => nomatch h

theorem endEdge : Statement (.endEdge) := fun _ h _ => nomatch h

theorem motorStep (endReleased : Bool) (elapsed : Nat) : Statement (.motorStep endReleased elapsed) := fun _ h _ => nomatch h

theorem brakingStep (endReleased : Bool) : Statement (.brakingStep endReleased) := fun _ h _ => nomatch h

theorem holdTimerExpiry : Statement (.holdTimerExpiry) := fun _ h _ => nomatch h

theorem rampStepEnd : Statement (.rampStepEnd) := fun _ h _ => nomatch h

theorem watchdogExpiry : Statement (.watchdogExpiry) := fun _ h _ => nomatch h

theorem lineComplete (dfdFirst : Bool) (pixels : List Pixel) : Statement (.lineComplete dfdFirst pixels) := fun _ h _ => nomatch h

theorem repairComplete : Statement (.repairComplete) := fun _ h _ => nomatch h

theorem warmupExpiry : Statement (.warmupExpiry) := fun _ h _ => nomatch h

theorem darkSettleEnd : Statement (.darkSettleEnd) := fun _ h _ => nomatch h

theorem calLineTimer : Statement (.calLineTimer) := fun _ h _ => nomatch h

theorem calLineComplete (pixels : List Pixel) : Statement (.calLineComplete pixels) := fun _ h _ => nomatch h

theorem afeTransferComplete (nack : Option AfeByte) (data : Byte) : Statement (.afeTransferComplete nack data) := fun _ h _ => nomatch h

end Sys2Proof.Laws.RowRecord
end

