-- ==== Sys2Proof/Laws/Stops.lean ====
section
/-! SUPPORT. What a stop order and the clearing of a scan leave, each said once. -/

namespace Sys2Proof.Machine

/-! ## Flags -/

/-- Every cause of `x` is in `y`. -/
def CauseSet.within (x y : CauseSet) : Prop := ∀ z : CauseSet, x &&& z = z → y &&& z = z

theorem CauseSet.within_refl (x : CauseSet) : x.within x := fun _ h => h

theorem CauseSet.within_trans {x y z : CauseSet} (h : x.within y) (k : y.within z) : x.within z :=
  fun w hw => k w (h w hw)

theorem CauseSet.within_or (x y : CauseSet) : x.within (x ||| y) := by
  intro z h
  rw [← h]
  ext i hi
  simp only [BitVec.getElem_and, BitVec.getElem_or]
  cases x[i] <;> cases y[i] <;> cases z[i] <;> rfl

/-- The evaluation of HALTED changes the Notice Unit and the notice slot only, and takes no cause away. -/
theorem State.evalHalted_changes (s : State) : ∃ n d,
    s.evalHalted = (s.setNtu n).setLif { s.lif with noticeDue := d } ∧ s.ntu.pending.within n.pending := by
  rw [State.evalHalted_form]
  exact ⟨_, _, rfl, CauseSet.within_or _ _⟩

/-- A demand posted with scan transport off is kept; besides it only HALTED is evaluated (R135, R145). -/
theorem State.post_off_changes (s : State) (src : Source) (g : Grade) (h : s.trc.scanOn = false) : ∃ n d,
    s.post src g = ((s.setTrc (s.trc.keep src g)).setNtu n).setLif { s.lif with noticeDue := d } ∧
      s.ntu.pending.within n.pending := by
  rw [State.post_off s h]
  exact State.evalHalted_changes (s.setTrc (s.trc.keep src g))

/-! ## The stop order (R130, R144, R156) -/

/-- What a stop order leaves of the carriage. -/
structure Trc.Ordered (t x : Trc) : Prop where
  off : x.scanOn = false ∧ x.target = none ∧ x.ramp = none ∧ x.hold = false ∧ x.current = .s0
  counted : x.position = t.position ∧ x.valid = t.valid
  brakes : x.braking = true ∨ x.motion = .parked
  demands : x.ring = t.ring ∧ x.repair = t.repair ∧ x.table = t.table ∧ x.cap = t.cap
  stands : t.motion = .parked → t.braking = false → x.motion = .parked ∧ x.braking = false

theorem State.stopOrder_changes (s : State) : ∃ x, s.stopOrder = s.setTrc x ∧ s.trc.Ordered x := by
  unfold State.stopOrder
  simp only []
  split
  · rename_i hb
    exact ⟨_, rfl, ⟨rfl, rfl, rfl, rfl, rfl⟩, ⟨rfl, rfl⟩, .inl hb, ⟨rfl, rfl, rfl, rfl⟩,
      fun _ h => by rw [hb] at h; cases h⟩
  · split
    · rename_i hm
      exact ⟨_, rfl, ⟨rfl, rfl, rfl, rfl, rfl⟩, ⟨rfl, rfl⟩, .inr hm, ⟨rfl, rfl, rfl, rfl⟩,
        fun h1 h2 => ⟨h1, h2⟩⟩
    · rename_i hm
      split
      · exact ⟨_, rfl, ⟨rfl, rfl, rfl, rfl, rfl⟩, ⟨rfl, rfl⟩, .inr rfl, ⟨rfl, rfl, rfl, rfl⟩,
          fun h => absurd h hm⟩
      · unfold State.brake
        simp only []
        split
        · exact ⟨_, rfl, ⟨rfl, rfl, rfl, rfl, rfl⟩, ⟨rfl, rfl⟩, .inl rfl, ⟨rfl, rfl, rfl, rfl⟩,
            fun h => absurd h hm⟩
        · unfold State.stopEvent State.resumeAtRest
          exact ⟨_, rfl, ⟨rfl, rfl, rfl, rfl, rfl⟩, ⟨rfl, rfl⟩, .inr rfl, ⟨rfl, rfl, rfl, rfl⟩,
            fun h => absurd h hm⟩

/-! ## The clearing of a scan (R155) -/

/-- The clearing of the ring (R33). -/
theorem State.ringClear_changes (s : State) (h : s.trc.scanOn = false) : ∃ n d,
    s.ringClear = (((s.setRng ⟨[]⟩).setTrc (s.trc.keep .ring .s3)).setNtu n).setLif {
      s.lif with noticeDue := d } ∧ s.ntu.pending.within n.pending :=
  State.post_off_changes (s.setRng ⟨[]⟩) .ring .s3 h

/-- The clearing of the Frame Table (R59). -/
theorem State.frdClear_changes (s : State) (h : s.trc.scanOn = false) : ∃ n d,
    s.frdClear = ((((s.setScn { s.scn with abandoned := s.frd.table.length }).setFrd { s.frd with
      table := []
      waiting := []
      classifier := .gap
      imageRun := 0
      gapRun := 0
      probe := [] }).setTrc (s.trc.keep .table .s3)).setNtu n).setLif { s.lif with
        waitList := s.lif.waitList.filter (· ≠ .frd)
        noticeDue := d } ∧ s.ntu.pending.within n.pending :=
  State.post_off_changes (((s.setScn { s.scn with abandoned := s.frd.table.length }).setFrd { s.frd with
    table := [], waiting := [], classifier := .gap, imageRun := 0, gapRun := 0, probe := [] }).setLif {
      s.lif with waitList := s.lif.waitList.filter (· ≠ .frd) }) .table .s3 h

/-- The clearing of the Repair Queue (R104). -/
theorem State.rpeClear_changes (s : State) (h : s.trc.scanOn = false) : ∃ n d,
    s.rpeClear = (((s.setRpe ⟨[], none, 0, 0⟩).setTrc (s.trc.keep .repair .s3)).setNtu n).setLif {
      s.lif with noticeDue := d } ∧ s.ntu.pending.within n.pending :=
  State.post_off_changes (s.setRpe ⟨[], none, 0, 0⟩) .repair .s3 h

/-- The clearing of a scan, block by block: the carriage has its stop order and three demands at S3. -/
theorem State.scanClear_changes (s : State) : ∃ (x : Trc) (n : Ntu) (d : Bool), s.trc.Ordered x ∧
    s.ntu.pending.within n.pending ∧
    s.scanClear = (((((((((s.setTrc { x with ring := .s3, repair := .s3, table := .s3 }).setCap
      s.cap.endCapture).setRng ⟨[]⟩).setFrd { s.frd with
        table := []
        waiting := []
        classifier := .gap
        imageRun := 0
        gapRun := 0
        probe := [] }).setDfd { s.dfd with history := [], regions := [] }).setRpe ⟨[], none, 0, 0⟩).setCoe {
          s.coe with
            step := .idle
            frame := none
            segOffset := 0
            settled := 0
            boxes := []
            lineCount := 0
            rowIndex := 0
            rows := []
            previewOffset := 0
            previewDone := true }).setScn { s.scn with abandoned := s.frd.table.length }).setNtu n).setLif {
              s.lif with
                waitList := s.lif.waitList.filter fun p => p ≠ .frd ∧ p ≠ .coe
                noticeDue := d } := by
  unfold State.scanClear
  obtain ⟨x, e, hx⟩ := State.stopOrder_changes s
  rw [e]
  simp only []
  generalize h2 : (s.setTrc x).setCap (s.setTrc x).cap.endCapture = s2
  obtain ⟨n1, d1, e1, p1⟩ := State.ringClear_changes s2 (by rw [← h2]; exact hx.off.1)
  rw [e1]
  generalize h3 : State.setLif _ _ = s3
  obtain ⟨n2, d2, e2, p2⟩ := State.frdClear_changes s3 (by rw [← h3, ← h2]; exact hx.off.1)
  rw [e2]
  generalize h4 : State.dfdClear _ = s4
  obtain ⟨n3, d3, e3, p3⟩ := State.rpeClear_changes s4 (by rw [← h4, ← h3, ← h2]; exact hx.off.1)
  rw [e3]
  refine ⟨x, n3, d3, hx, ?_, ?_⟩
  · rw [← h4] at p3
    rw [← h3] at p2
    rw [← h2] at p1
    exact CauseSet.within_trans (CauseSet.within_trans p1 p2) p3
  · subst h4 h3 h2
    refine State.eq_of_blocks rfl rfl rfl rfl rfl rfl rfl rfl ?_ rfl rfl rfl
    have hw : (s.lif.waitList.filter (· ≠ Producer.frd)).filter (· ≠ Producer.coe) =
        s.lif.waitList.filter fun p => p ≠ .frd ∧ p ≠ .coe := by
      rw [List.filter_filter]
      refine List.filter_congr fun p _ => ?_
      cases p <;> rfl
    exact congrArg (fun w => ({ s.lif with waitList := w, noticeDue := d3 } : Lif)) hw

/-- A scan that is cleared, with the Scan Controller's own part set to `c`, and an operation state entered:
every other part of it is cleared as `ScanCleared` says, and no cause is taken away (R155, R158). -/
theorem State.scanCleared (s : State) (c : Scn) (op : OpState) (hc : c.abandoned = s.frd.table.length ∧
    c.captured = s.scn.captured ∧ c.frames = s.scn.frames ∧ c.slivers = s.scn.slivers ∧
    c.reseeks = s.scn.reseeks ∧ c.setup = s.scn.setup) :
    ScanCleared s ((s.scanClear.setScn c).setOp op) ∧
    ((s.scanClear.setScn c).setOp op).scn = { c with op := op } ∧
    ((s.scanClear.setScn c).setOp op).pins = s.pins ∧
    s.ntu.pending.within ((s.scanClear.setScn c).setOp op).ntu.pending ∧
    (s.trc.motion = .parked → s.trc.braking = false →
      ((s.scanClear.setScn c).setOp op).trc.motion = .parked ∧
      ((s.scanClear.setScn c).setOp op).trc.braking = false) := by
  obtain ⟨x, n, d, hx, hn, e⟩ := State.scanClear_changes s
  rw [e]
  generalize hv : State.setLif _ _ = v
  obtain ⟨m, b, e2, hm⟩ := State.evalHalted_changes ((v.setScn c).setScn { c with op := op })
  have e3 : (v.setScn c).setOp op = _ := e2
  rw [e3]
  subst hv
  exact ⟨⟨rfl, rfl, rfl, rfl, rfl, rfl,
    ⟨hx.off.1, hx.off.2.1, hx.off.2.2.1, hx.off.2.2.2.1, hx.off.2.2.2.2, hx.counted.1, hx.counted.2⟩,
    hx.brakes, ⟨rfl, rfl, rfl, hx.demands.2.2.2⟩, hc, ⟨_, rfl⟩, ⟨rfl, rfl⟩⟩, rfl, rfl,
    CauseSet.within_trans hn hm, hx.stands⟩

end Sys2Proof.Machine
end

