-- ==== Sys2Proof/Laws/Wire.lean ====
section
/-! SUPPORT. The receive framer over runs of bytes: the sync pair, the header, the payload, and the check, one
lemma for each part of a record (R166, R167). -/

namespace Sys2Proof.Machine

section wire

variable (s : State)

@[simp] theorem State.setFramer_framer (f : Framer) : (s.setFramer f).lif.framer = f := rfl

@[simp] theorem State.setFramer_setFramer (f g : Framer) :
    (s.setFramer f).setFramer g = s.setFramer g := rfl

theorem State.setFramer_self {f : Framer} (h : s.lif.framer = f) : s.setFramer f = s := by
  subst h; rfl

theorem State.takeBytes_append (a b : List Byte) :
    s.takeBytes (a ++ b) = (s.takeBytes a).takeBytes b := by
  induction a generalizing s with
  | nil => rfl
  | cons x a ih => exact ih (s.takeByte x)

/-- A good record leaves the same behind, whatever part of it the framer still held. -/
theorem State.recordArrives_setFramer (f : Framer) (r : Record) :
    (s.setFramer f).recordArrives r = s.recordArrives r := rfl

/-- A receive error leaves the same behind, whatever the framer held. -/
theorem State.linkError_setFramer (f : Framer) (e : LinkError) :
    (s.setFramer f).linkError e = s.linkError e := rfl

/-- HUNT passes over any byte but the first of the sync pair (R167). -/
theorem State.takeByte_hunt_other (h : s.lif.framer = .hunt) {b : Byte} (hb : b ≠ syncFirst) :
    s.takeByte b = s := by
  unfold State.takeByte; rw [h]; simp [hb]

/-- The sync pair takes the framer from HUNT to HEADER with the check at its start (R166, R167). -/
theorem State.takeBytes_sync (h : s.lif.framer = .hunt) :
    s.takeBytes [syncFirst, syncSecond] = s.setFramer (.header [] crcStart) := by
  have h1 : s.takeByte syncFirst = s.setFramer .sync := by
    unfold State.takeByte; rw [h]; simp
  have h2 : (s.setFramer .sync).takeByte syncSecond = s.setFramer (.header [] crcStart) := by
    unfold State.takeByte; simp
  rw [State.takeBytes, h1, State.takeBytes, h2]; rfl

/-- The four header bytes, taken into the check (R166, R167). -/
theorem State.takeBytes_header (k t lo hi : Byte) (c : Half) :
    (s.setFramer (.header [] c)).takeBytes [k, t, lo, hi] =
      s.headerDone k t lo hi ([k, t, lo, hi].foldl crcByte c) := by
  simp only [State.takeBytes]
  have h1 : (s.setFramer (.header [] c)).takeByte k = s.setFramer (.header [k] (crcByte c k)) := by
    unfold State.takeByte; rfl
  have h2 : ∀ c1, (s.setFramer (.header [k] c1)).takeByte t = s.setFramer (.header [k, t] (crcByte c1 t)) := by
    intro c1; unfold State.takeByte; rfl
  have h3 : ∀ c1, (s.setFramer (.header [k, t] c1)).takeByte lo =
      s.setFramer (.header [k, t, lo] (crcByte c1 lo)) := by
    intro c1; unfold State.takeByte; rfl
  rw [h1, h2, h3]
  have h4 : ∀ c1, (s.setFramer (.header [k, t, lo] c1)).takeByte hi =
      (s.setFramer (.header [k, t, lo] c1)).headerDone k t lo hi (crcByte c1 hi) := by
    intro c1; unfold State.takeByte; rfl
  rw [h4]
  unfold State.headerDone
  simp only []
  repeat' split
  · exact s.linkError_setFramer _ _
  · rfl
  · rfl

/-- The payload bytes up to the last, taken into the check (R166, R167). -/
theorem State.takeBytes_payload (k t : Byte) (n : Nat) (bs : List Byte) (hb : bs ≠ []) :
    ∀ (got : List Byte) (c : Half), got.length + bs.length = n →
      (s.setFramer (.payload k t n got c)).takeBytes bs =
        s.setFramer (.check ⟨k, t, got ++ bs⟩ (bs.foldl crcByte c) none) := by
  induction bs with
  | nil => exact absurd rfl hb
  | cons b bs ih =>
    intro got c hn
    rw [State.takeBytes]
    by_cases he : bs = []
    · subst he
      have h1 : (s.setFramer (.payload k t n got c)).takeByte b =
          s.setFramer (.check ⟨k, t, got ++ [b]⟩ (crcByte c b) none) := by
        unfold State.takeByte
        simp only [State.setFramer_framer, State.setFramer_setFramer, List.length_append,
          List.length_singleton] at hn ⊢
        rw [if_pos (by simpa using hn.ge)]
      rw [h1]; rfl
    · have hl : 0 < bs.length := List.length_pos_iff.mpr he
      simp only [List.length_cons] at hn
      have h1 : (s.setFramer (.payload k t n got c)).takeByte b =
          s.setFramer (.payload k t n (got ++ [b]) (crcByte c b)) := by
        unfold State.takeByte
        simp only [State.setFramer_framer, State.setFramer_setFramer, List.length_append,
          List.length_singleton]
        rw [if_neg (by omega)]
      rw [h1, ih he (got ++ [b]) (crcByte c b) (by simp only [List.length_append, List.length_singleton]; omega)]
      simp

/-- The two check bytes: a record whose check is right arrives, any other is a CRC error (R167, R168). -/
theorem State.takeBytes_check (r : Record) (c : Half) (hi lo : Byte) :
    (s.setFramer (.check r c none)).takeBytes [hi, lo] =
      if hi.toNat * 256 + lo.toNat = c.toNat then s.recordArrives r else s.linkError .crc := by
  have h1 : (s.setFramer (.check r c none)).takeByte hi = s.setFramer (.check r c (some hi)) := by
    unfold State.takeByte; rfl
  have h2 : (s.setFramer (.check r c (some hi))).takeByte lo =
      if hi.toNat * 256 + lo.toNat = c.toNat then (s.setFramer (.check r c (some hi))).recordArrives r
      else (s.setFramer (.check r c (some hi))).linkError .crc := by
    unfold State.takeByte; rfl
  simp only [State.takeBytes]
  rw [h1, h2]
  rfl

/-- A check sent high byte first is read back (R166). -/
theorem check_bytes (c : Half) : (byte (c.toNat / 256)).toNat * 256 + (byte c.toNat).toNat = c.toNat := by
  have h : c.toNat < 65536 := c.isLt
  simp only [byte, BitVec.toNat_ofNat]
  omega

/-- A length sent low byte first is read back (R166). -/
theorem length_bytes {n : Nat} (h : n < 65536) :
    (byte n).toNat + 256 * (byte (n / 256)).toNat = n := by
  simp only [byte, BitVec.toNat_ofNat]
  omega

end wire

/-- A kind byte is the code of the command that it names (R170, R196). -/
theorem Kind.code_of_kindOf {b : Byte} {k : Kind} (h : kindOf b = some k) : k.code = b := by
  unfold kindOf at h
  have := List.find?_some h
  simpa using this

end Sys2Proof.Machine
end

