-- ==== Sys2Proof/Tests/Slice0.lean ====
section
/-! SUPPORT. Tests: what WellFormed refuses, one or two cases for each row with results taken from the spec's
rules and worked examples, and for each statement a state that meets its hypotheses. -/

namespace Sys2Proof.Tests

open Sys2Proof Sys2Proof.Machine

/-! ## States for the tests -/

/-- A device in an operation state, holder in place, with LINK_HOLD active so that records stay where they
are queued. -/
def rig (op : OpState) : State :=
  ((State.reset.setScn { State.reset.scn with op := op }).setPins ⟨true, false, false, true⟩).setNtu
    ⟨0#9, 0#9, false⟩

/-- The same with another Transport Controller. -/
def rigTrc (op : OpState) (x : Trc) : State := (rig op).setTrc x

/-- A VALID carriage at a position. -/
def at_ (position : Half) : Trc := { Trc.powerOn with position := position, valid := true }

/-- A carriage that cruises in scan transport at S3. -/
def cruise (position : Half) : Trc :=
  { at_ position with
    motion := .cruising, scanOn := true, lampReady := true, current := .s3, interval := 1000, resumePos := 256 }

/-- The default setup with the smallest W. -/
def smallSetup : Setup := { Setup.default with w := 64, wr := 63 }

/-- A scan in progress with the gate OPEN, W = 64, and a line in flight that has so many pixels. -/
def scanning (received : List Pixel) (remaining : Nat) : State :=
  ((rigTrc .scanning (cruise 300)).setScn { (rig .scanning).scn with setup := smallSetup }).setCap
    { Cap.powerOn with
      gateOpen := true, inFlight := some ⟨44, received⟩, nextLine := 45, remaining := remaining, watchdog := true }

/-- A pixel with all four samples equal. -/
def px (v : Half) : Pixel := ⟨v, v, v, v⟩

/-- What a field of the next state is, if the row answers a next state. -/
def after {α : Type} (c : Instr) (s : State) (f : State → α) : Option α :=
  match exec c s with
  | .next t => some (f t)
  | .fault _ => none
  | .refused _ => none

/-- The payload of the last reply queued. -/
def lastReply (s : State) : Option (List Byte) := s.lif.replies.getLast?.map (·.payload)

/-! ## WellFormed refuses -/

theorem test_refuses_no_bytes : (Instr.recordReceived []).wellFormed = false := by decide
theorem test_refuses_long_payload : (Instr.identify 0#8 (List.replicate 1025 0#8)).wellFormed = false := by
  change decide ((List.replicate 1025 0#8).length ≤ 1024) = false
  rw [List.length_replicate]
  decide
theorem test_refuses_known_kind : (Instr.unknownKind 0x01#8 0#8 []).wellFormed = false := by decide
theorem test_refuses_long_elapsed : (Instr.motorStep false 40001).wellFormed = false := by decide
theorem test_refuses_no_pixels : (Instr.lineComplete false []).wellFormed = false := by decide
theorem test_refuses_no_cal_pixels : (Instr.calLineComplete []).wellFormed = false := by decide
theorem test_takes_unknown_kind : (Instr.unknownKind 0x7F#8 0#8 []).wellFormed = true := by decide

/-! ## Resets (R165, R178, R193) -/

theorem test_power_on : after .powerOn (rigTrc .positioning (at_ 9)) (fun t =>
    (t.scn.op, t.trc.position, t.trc.valid, t.ntu.pending)) = some (.idle, 0#16, false, 0#9) := by decide
theorem test_reset_pin_without_holder : after .resetPin ((rig .scanning).setPins ⟨false, false, false, false⟩)
    (fun t => (t.scn.op, t.ntu.pending, t.frd.baseG)) = some (.idle, 4#9, 40000) := by decide
theorem test_soft_reset_is_pending : after (.softReset 5#8 []) (rig .scanning) (fun t =>
    (t.scn.op, t.lif.resetPending, lastReply t)) = some (.scanning, true, some [0#8]) := by decide

/-- The SOFT_RESET reply is being sent. -/
def resetting : State := (rigTrc .scanning (cruise 300)).setLif { Lif.initial with
  tx := some ⟨0x83#8, 5#8, [0#8]⟩, slot := some ⟨0x03#8, 5#8, []⟩, resetPending := true }

theorem test_soft_reset_takes_effect : after .softResetTakesEffect resetting (fun t =>
    (t.scn.op, t.trc.position, t.trc.valid, t.trc.motion, t.lif.slot.isNone)) =
    some (.idle, 300#16, true, .parked, true) := by decide

/-- The refusal of an earlier SOFT_RESET goes out while the pending one's reply waits: no reset yet (R177). -/
theorem test_earlier_refusal_is_not_the_reset : after .recordSent (resetting.setLif { resetting.lif with
    tx := some ⟨0x83#8, 4#8, [2#8]⟩, replies := [⟨0x83#8, 5#8, [0#8]⟩] }) (fun t =>
    (t.scn.op, t.lif.resetPending)) = some (.scanning, true) := by decide

/-! ## The link (R166 to R176) -/

/-- The check of the nine digits, the value catalogued for this check register. -/
theorem test_check_of_digits :
    crcOf [0x31#8, 0x32#8, 0x33#8, 0x34#8, 0x35#8, 0x36#8, 0x37#8, 0x38#8, 0x39#8] = 0x29B1#16 := by
  decide +kernel
theorem test_record_is_dispatched : after (.recordReceived
    [0xC5#8, 0x5C#8, 0x10#8, 9#8, 1#8, 0#8, 1#8, 0xC1#8, 0x30#8]) (rig .idle) (fun t =>
    (t.cap.lamp, lastReply t)) = some (.warming, some [0#8, 1#8]) := by decide +kernel
theorem test_bad_check_is_discarded : after (.recordReceived
    [0xC5#8, 0x5C#8, 0x10#8, 9#8, 1#8, 0#8, 1#8, 0xC1#8, 0x31#8]) (rig .idle) (fun t =>
    (t.cap.lamp, t.lif.lastError, t.ntu.pending)) = some (.off, .crc, 1#9) := by decide +kernel
theorem test_inter_byte_timeout : after .interByteTimeout
    ((rig .idle).setLif { Lif.initial with framer := .header [1#8] 0#16 }) (fun t =>
    (t.lif.framer, t.lif.lastError, t.ntu.pending)) = some (.hunt, .timeout, 1#9) := by decide
theorem test_unknown_kind : after (.unknownKind 0x50#8 3#8 []) (rig .idle) (fun t => t.lif.replies) =
    some [⟨0xD0#8, 3#8, [6#8, 0x50#8]⟩] := by decide

/-- A record is being sent, a reply and a report wait, and LINK_HOLD is inactive. -/
def sending : State := ((rig .idle).setPins ⟨true, false, false, false⟩).setLif { Lif.initial with
  tx := some ⟨0x40#8, 0#8, []⟩, replies := [⟨0x81#8, 1#8, []⟩], reports := [⟨0x43#8, 0#8, []⟩] }

theorem test_record_sent_takes_the_reply : after .recordSent sending (fun t =>
    (t.lif.tx.map (·.kind), t.lif.replies, t.lif.reports.length)) = some (some 0x81#8, [], 1) := by decide
theorem test_link_hold_active : after .linkHoldActive sending (fun t =>
    (t.pins.linkHold, t.lif.tx.map (·.kind))) = some (true, some 0x40#8) := by decide
theorem test_link_hold_inactive : after .linkHoldInactive ((rig .idle).setLif { Lif.initial with
    reports := [⟨0x43#8, 0#8, []⟩] }) (fun t => (t.lif.tx.map (·.kind), t.lif.reports.length)) =
    some (some 0x43#8, 0) := by decide

/-! ## Identity, status, setup, profile, rules (R180 to R183, R108, R48) -/

theorem test_identify : after (.identify 7#8 []) (rig .faulted) (fun t =>
    t.lif.replies.map fun r => (r.kind, r.tag, r.payload.length)) = some [(0x81#8, 7#8, 31)] := by decide
theorem test_status : after (.status 7#8 []) (rigTrc .positioning { at_ 0x1234 with motion := .moving })
    lastReply = some (some [0#8, 1#8, 0#8, 0#8, 2#8, 0#8, 0x34#8, 0x12#8, 1#8, 0#8, 0#8, 0#8, 0#8, 0#8, 0#8, 0#8,
      0#8, 0#8, 0#8]) := by decide

/-- The default setup as a payload, by the table of section 10.3 and the layout of R197. -/
def setupBytes (w lp : Byte) : List Byte :=
  [0x00#8, 0x01#8, 0x01#8, 0x00#8, 0x00#8, w, 0x00#8, 0x00#8, 0xFF#8, 0x1F#8, lp, 0x00#8,
   0x40#8, 0x9C#8, 0x40#8, 0x9C#8, 0x40#8, 0x9C#8, 0xE0#8, 0xC0#8, 6#8, 6#8, 0x40#8, 0x1F#8, 0xE0#8, 0xC0#8,
   2#8, 64#8, 1#8, 0#8, 0#8, 0x2C#8]

/-- LP of 100 is clamped to 250. -/
theorem test_setup_clamps : after (.setup 1#8 (setupBytes 0x20#8 100#8)) (rig .idle) (fun t =>
    (t.scn.setup.lp, (lastReply t).map List.head?)) = some (250, some (some 0#8)) := by decide
/-- W of 0 is refused with field 3, and nothing is written. -/
theorem test_setup_names_field : after (.setup 1#8 (setupBytes 0#8 100#8)) (rig .idle) (fun t =>
    (t.scn.setup.lp, lastReply t)) = some (1000, some [2#8, 3#8]) := by decide
theorem test_profile_clamps : after (.profile 1#8 [1#8, 8#8, 0#8, 99#8, 99#8, 99#8, 16#8, 0#8, 5#8, 0#8])
    (rig .scanning) (fun t => t.coe.pendingProfile) =
    some (some ⟨true, true, false, 63, 15, 15, 16, 5⟩) := by decide
theorem test_profile_odd_width : after (.profile 1#8 [1#8, 8#8, 0#8, 9#8, 9#8, 9#8, 17#8, 0#8, 5#8, 0#8])
    (rig .scanning) (fun t => (t.coe.pendingProfile.isNone, lastReply t)) = some (true, some [2#8]) := by decide
theorem test_format_rule : after (.formatRule 1#8 [3#8, 1#8, 5#8, 0#8, 5#8, 0#8]) (rig .idle) (fun t =>
    (t.frd.rules.get 3, t.frd.rules.get 2)) = some (⟨true, 5, 5⟩, .off) := by decide
theorem test_format_rule_refused : after (.formatRule 1#8 [0#8, 1#8, 6#8, 0#8, 5#8, 0#8]) (rig .idle) (fun t =>
    (t.frd.rules.get 0, lastReply t)) = some (.off, some [2#8]) := by decide

/-! ## Scans, markers, cap (R149 to R163, R134) -/

/-- An IDLE device that SCAN_START takes, with the lamp ON. -/
def startable : State := (rigTrc .idle (at_ 700)).setCap { Cap.powerOn with valid := true, lamp := .on }

theorem test_scan_start : after (.scanStart 1#8 []) startable (fun t =>
    (t.scn.op, t.trc.resumePos, t.trc.hold, t.cap.remaining, t.coe.previewDone)) =
    some (.preparing, 256, true, 1, true) := by decide
theorem test_scan_start_not_ready : after (.scanStart 1#8 []) (rig .idle) (fun t =>
    (t.scn.op, lastReply t)) = some (.idle, some [3#8, 1#8]) := by decide
theorem test_mark_when_idle : after (.mark 1#8 [0x11#8, 0#8]) (rig .idle) (fun t =>
    (t.lif.reports.map (·.payload), lastReply t)) =
    some ([[0x11#8, 0#8, 0xFF#8, 0xFF#8, 0#8]], some [0#8, 0xFF#8, 0xFF#8]) := by decide
theorem test_mark_when_scanning : after (.mark 1#8 [0x11#8, 0#8]) (scanning [] 5) (fun t =>
    (t.scn.markers, lastReply t)) = some ([⟨0x11#16, some 45, false, false⟩], some [0#8, 45#8, 0#8]) := by decide
theorem test_speed_cap_clamps : after (.speedCap 1#8 [9#8]) (rig .idle) (fun t => (t.trc.cap, lastReply t)) =
    some (.s3, some [0#8, 3#8]) := by decide
/-- The halt from S3 of section 7.3: braking, the gate shut, three steps to come, the first after 2 ms. -/
theorem test_speed_cap_halts : after (.speedCap 1#8 [0#8]) (scanning [] 5) (fun t =>
    (t.cap.gateOpen, t.trc.braking, t.trc.brakesLeft, t.trc.interval, t.trc.resumePos)) =
    some (false, true, 3, 2000, 301) := by decide
theorem test_abort_scan : after (.abort 1#8 []) (scanning [] 5) (fun t =>
    (t.scn.op, t.cap.inFlight.isNone, t.lif.reports.map (·.kind), lastReply t)) =
    some (.stopping, true, [0x46#8], some [0#8, 6#8]) := by decide
theorem test_abort_faulted : after (.abort 1#8 []) (rig .faulted) (fun t => (t.scn.op, lastReply t)) =
    some (.idle, some [0#8, 0#8]) := by decide

/-! ## Lamp, carriage commands, front end (R16, R132, R133, R19) -/

theorem test_lamp_on : after (.lamp 1#8 [1#8]) (rig .idle) (fun t => (t.cap.lamp, t.cap.warmup)) =
    some (.warming, true) := by decide
theorem test_lamp_busy : after (.lamp 1#8 [1#8]) (rig .preparing) (fun t => (t.cap.lamp, lastReply t)) =
    some (.off, some [1#8, 3#8]) := by decide
theorem test_home : after (.home 1#8 []) (rigTrc .faulted (at_ 9)) (fun t =>
    (t.scn.op, t.trc.motion, t.trc.dir, t.trc.valid)) = some (.positioning, .homing, .backward, false) := by decide
theorem test_move : after (.move 1#8 [0xE8#8, 0x03#8]) (rigTrc .idle (at_ 9)) (fun t =>
    (t.trc.target, t.trc.dir, lastReply t)) = some (some 1000, .forward, some [0#8, 1#8, 2#8]) := by decide
theorem test_move_in_place : after (.move 1#8 [9#8, 0#8]) (rigTrc .idle (at_ 9)) lastReply =
    some (some [0#8, 0#8, 0#8]) := by decide
theorem test_afe_write : after (.afeWrite 1#8 [2#8, 3#8]) (rig .idle) (fun t =>
    (t.cap.afe, t.lif.replies.length)) = some (some ⟨true, 0x2C, 2#8, 3#8⟩, 0) := by decide
theorem test_afe_read : after (.afeRead 1#8 [2#8]) (rig .idle) (fun t => t.cap.afe.map (·.write)) =
    some (some false) := by decide

/-- A read runs on the Front-End Control Port. -/
def reading : State := ((rig .idle).setCap { Cap.powerOn with afe := some ⟨false, 0x2C, 2#8, 0#8⟩ }).setLif
  { Lif.initial with slot := some ⟨0x15#8, 4#8, [2#8]⟩ }

theorem test_afe_read_ends : after (.afeTransferComplete none 0x5A#8) reading (fun t => t.lif.replies) =
    some [⟨0x95#8, 4#8, [0#8, 0#8, 0x5A#8]⟩] := by decide
theorem test_afe_nack : after (.afeTransferComplete (some .register) 0x5A#8) reading (fun t =>
    (lastReply t, t.ntu.pending)) = some (some [5#8, 2#8, 0#8], 0x10#9) := by decide

/-! ## Calibration (R8 to R16) -/

theorem test_cal_run_in_place : after (.calRun 1#8 [9#8, 0#8, 8#8, 0#8, 0#8]) (rigTrc .idle (at_ 9)) (fun t =>
    (t.scn.op, t.cap.cal.map fun r => (r.phase, r.lines, r.target), lastReply t)) =
    some (.calibrating, some (.darkSettle, 8, 4096), some [0#8, 8#8, 0#8, 16#8, 1#8]) := by decide
theorem test_cal_run_lines : after (.calRun 1#8 [9#8, 0#8, 9#8, 0#8, 0#8]) (rigTrc .idle (at_ 9)) (fun t =>
    (t.scn.op, lastReply t)) = some (.idle, some [2#8]) := by decide
theorem test_cal_load : after (.calLoad 1#8 [1#8, 1#8, 1#8, 5#8, 0#8, 1#8, 0#8, 0x6D#8, 0x15#8]) (rig .idle)
    (fun t => (t.cap.valid, Table.read t.cap.gain.g 5, Table.read t.cap.dark.g 5)) =
    some (true, 5485#16, 0#16) := by decide
theorem test_cal_read : after (.calRead 1#8 [1#8, 0#8, 5#8, 0#8, 2#8, 0#8]) (rig .idle) lastReply =
    some (some [0#8, 0#8, 2#8, 0#8, 0#8, 0#8, 0#8, 0#8]) := by decide

/-- A calibration run in a phase. -/
def calibrating (phase : CalPhase) : State := (rigTrc .calibrating (at_ 9)).setCap { Cap.powerOn with
  cal := some { CalRun.start 8 60000 with phase := phase } }

theorem test_dark_settle_end : after .darkSettleEnd (calibrating .darkSettle) (fun t =>
    (t.cap.cal.map (·.phase), t.cap.calTimer)) = some (some .darkCapture, true) := by decide
theorem test_cal_line_timer : after .calLineTimer ((calibrating .darkCapture).setCap
    { (calibrating .darkCapture).cap with calTimer := true }) (fun t => (t.cap.inFlight.isSome, t.cap.watchdog)) =
    some (true, true) := by decide
theorem test_warmup_starts_white : after .warmupExpiry ((calibrating .warmUp).setCap
    { (calibrating .warmUp).cap with lamp := .warming, warmup := true }) (fun t =>
    (t.cap.lamp, t.cap.cal.map (·.phase), t.cap.calTimer)) = some (.on, some .whiteCapture, true) := by decide

/-- A dark capture of W = 64 with a line in flight that lacks one pixel. -/
def darkLine : State := ((calibrating .darkCapture).setScn
    { (calibrating .darkCapture).scn with setup := smallSetup }).setCap
  { (calibrating .darkCapture).cap with
    calTimer := true, watchdog := true, inFlight := some ⟨0, List.replicate 63 (px 7)⟩ }

theorem test_cal_line_complete : after (.calLineComplete [px 9]) darkLine (fun t =>
    (t.cap.calCount, t.cap.inFlight.isNone, t.cap.cal.map fun r => (r.darkSums.g[0]?, r.darkSums.g[63]?))) =
    some (1, true, some (some 7, some 9)) := by decide

/-- The figures of section 1.5: average, gain, and the weak column at its right. -/
theorem test_calibration_figures : average 16 19200 = 1200 ∧ average 16 736000 = 46000 ∧
    channelGains 60000 [44800, 800] = [5485, 5485] := by decide
/-- A weak column with no strong column to its left takes the first to its right (section 1.5). -/
theorem test_weak_column_at_the_left : channelGains 4900 [10, 10, 10, 4096] = [4900, 4900, 4900, 4900] := by decide
/-- The corrected samples of section 1.3. -/
theorem test_corrected_sample : correctSample 30000 1200 5485 = 38566#16 ∧ correctSample 1100 1200 5485 = 0#16 ∧
    correctSample 60000 1200 5485 = 65535#16 := by decide

/-! ## Causes (R191, R192) -/

theorem test_cause_enable : after (.causeEnable 1#8 [4#8, 0#8])
    ((rig .idle).setNtu ⟨4#9, 0#9, false⟩) (fun t => (t.ntu.enabled, t.lif.noticeDue, lastReply t)) =
    some (4#9, true, some [0#8, 4#8, 0#8, 4#8, 0#8]) := by decide
theorem test_cause_enable_tenth : after (.causeEnable 1#8 [0#8, 2#8]) (rig .idle) lastReply =
    some (some [2#8]) := by decide
theorem test_cause_clear_keeps_holder_out : after (.causeClear 1#8 [5#8, 0#8])
    ((rig .idle |>.setNtu ⟨5#9, 0#9, false⟩).setPins ⟨false, false, false, true⟩) (fun t => t.ntu.pending) =
    some 4#9 := by decide

/-! ## Pins (R131, R132, R157, R189) -/

theorem test_holder_removed_ends_scan : after .holderRemoved (scanning [] 5) (fun t =>
    (t.scn.op, t.scn.endReason, t.ntu.pending)) = some (.stopping, some .holder, 4#9) := by decide
theorem test_holder_inserted : after .holderInserted ((rig .idle).setPins ⟨false, false, false, true⟩)
    (fun t => t.pins.holder) = some true := by decide

/-- A HOME move that seeks, with a step count. -/
def seeking (steps : Nat) : State := rigTrc .positioning { Trc.powerOn with
  position := 40, motion := .homing, dir := .backward, homing := some ⟨.seeking, steps⟩, interval := 1000 }

theorem test_home_edge : after .homeEdge (seeking 3) (fun t =>
    (t.scn.op, t.trc.position, t.trc.valid, t.trc.motion)) = some (.idle, 0#16, true, .parked) := by decide
theorem test_home_released : after .homeReleased ((seeking 3).setTrc { (seeking 3).trc with
    dir := .forward, homing := some ⟨.leaving, 3⟩ }) (fun t => (t.trc.dir, t.trc.homing)) =
    some (.backward, some ⟨.seeking, 3⟩) := by decide
theorem test_home_step_limit : after .homeStepLimit (seeking 65534) (fun t =>
    (t.scn.op, t.trc.valid, t.lif.reports.map (·.payload))) =
    some (.faulted, false, [[3#8, 1#8, 0#8, 0#8, 39#8, 0#8, 0#8]]) := by decide
theorem test_end_edge_ends_scan : after .endEdge (scanning [] 5) (fun t =>
    (t.scn.op, t.trc.motion, t.ntu.pending, t.lif.reports.map (·.kind))) =
    some (.faulted, .parked, 0x20#9, [0x45#8, 0x46#8]) := by decide

/-! ## The carriage (R128 to R142) -/

theorem test_motor_step_arrives : after (.motorStep false 0) (rigTrc .positioning { at_ 9 with
    motion := .moving, target := some 10, interval := 1000 }) (fun t => (t.scn.op, t.trc.position, t.trc.motion)) =
    some (.idle, 10#16, .parked) := by decide
/-- The last row of the re-seek of section 7.6: the gate opens, line 1,204 starts, re-seeks counted. -/
theorem test_motor_step_resumes : after (.motorStep false 0) (rigTrc .scanning { cruise 1459 with
    motion := .approaching, target := some 1460, current := .s2, resumeLine := 1204, resumePos := 1460 }) (fun t =>
    (t.trc.motion, t.trc.position, t.cap.gateOpen, t.scn.reseeks, t.trc.interval)) =
    some (.cruising, 1460#16, true, 1, 2000) := by decide
/-- The second braking step of section 7.3: 4 ms have passed, 8 ms follow. -/
theorem test_braking_step : after (.brakingStep false) (rigTrc .scanning { cruise 1460 with
    braking := true, current := .s0, brakesLeft := 2, interval := 4000 }) (fun t =>
    (t.trc.position, t.trc.brakesLeft, t.trc.interval)) = some (1461#16, 1, 8000) := by decide
/-- The hold of section 7.6 ends: 50 steps back from 1,462 to 1,412. -/
theorem test_hold_timer : after .holdTimerExpiry (rigTrc .scanning { cruise 1462 with
    motion := .parked, current := .s0, hold := true, ring := .s2, resumePos := 1460 }) (fun t =>
    (t.trc.motion, t.trc.target, t.trc.dir)) = some (.backtracking, some 1412, .backward) := by decide
theorem test_ramp_step_end : after .rampStepEnd (rigTrc .scanning { cruise 1000 with
    ramp := some .s1, repair := .s1 }) (fun t => (t.trc.current, t.trc.ramp)) = some (.s2, some .s1) := by decide

/-! ## Lines, frames, runs, repair (chapters 1 to 6) -/

theorem test_watchdog : after .watchdogExpiry (scanning [] 5) (fun t =>
    (t.scn.op, t.cap.inFlight.isNone, t.ntu.pending, (t.lif.reports.head?).map (·.payload))) =
    some (.faulted, true, 8#9, some [1#8, 4#8, 44#8, 0#8, 44#8, 1#8, 1#8]) := by decide
theorem test_line_complete : after (.lineComplete false [px 50000]) (scanning (List.replicate 63 (px 50000)) 5)
    (fun t => (t.rng.lines.length, t.cap.remaining, t.scn.captured, t.cap.inFlight.isNone)) =
    some (1, 4, 1, true) := by decide +kernel
theorem test_repair_complete : after .repairComplete ((rig .draining).setRpe ⟨[], some ⟨0, 0, 0, ⟨0, 0⟩⟩, 0, 0⟩)
    (fun t => t.rpe.current) = some none := by decide
/-- The classes and the base update of section 3.3. -/
theorem test_line_classes : classify Setup.default 40000 41000 = .gapLike ∧ updateBase 40000 41000 = 40125 ∧
    classify Setup.default 40125 28000 = .imageLike ∧ classify Setup.default 40125 33000 = .neutral := by decide
/-- The run list of section 4.4. -/
theorem test_run_list : mergeRuns [⟨98, 105, 4⟩, ⟨105, 109, 1⟩, ⟨110, 117, 4⟩, ⟨4028, 4031, 2⟩] =
    [⟨98, 117, 9⟩, ⟨4028, 4031, 2⟩] := by decide
/-- The estimates of section 5.5. -/
theorem test_interpolation : estimate 1000 3 1600 3 = 1300 ∧ estimate 1200 2 1500 5 = 1286 ∧
    combine 1300 6 1286 7 = 1294 ∧ estimate 1000 1 1600 5 = 1100 := by decide
/-- The rectangles of section 6.3: first column and column count. -/
theorem test_rectangles :
    rectangle { Setup.default with wl := 64, wr := 4031 } ⟨false, false, false, 16, 4, 4, 0, 0⟩ 317 3900 =
      (301, 3616) ∧
    rectangle { Setup.default with wl := 64, wr := 4031 } ⟨false, false, false, 0, 4, 4, 4000, 0⟩ 317 3900 =
      (108, 4000) := by decide
/-- The preview samples of section 6.8. -/
theorem test_preview_samples : previewSample 2459000 64 = 150#8 ∧ previewSample 900000 24 = 146#8 := by decide

/-! ## Witnesses: states that meet the hypotheses of the statements, clause by clause -/

/-- A rig is ready for a command in every operation state. -/
theorem ready_rig (op : OpState) : Ready (rig op) :=
  ⟨rfl, (by decide : 0 < 4), rfl, rfl⟩
/-- So it is with any Transport Controller. -/
theorem ready_rigTrc (op : OpState) (x : Trc) : Ready (rigTrc op x) :=
  ⟨rfl, (by decide : 0 < 4), rfl, rfl⟩
/-- A scan in progress is ready. -/
theorem ready_scanning (px : List Pixel) (n : Nat) : Ready (scanning px n) :=
  ⟨rfl, (by decide : 0 < 4), rfl, rfl⟩
/-- Nothing reacts and the arbiter waits: quiet. -/
theorem quiet_of {s : State} (h : s.settleStep = none) (w : s.arbiterWaits = true) : Quiet s := ⟨h, .inl w⟩

theorem witness_StepRunsFrontCommand :
    ((rig .idle).setPending [.powerOn]).pending = .powerOn :: [] ∧ State.reset.pending = [] := ⟨rfl, rfl⟩

theorem witness_RecordOnTheWireIsItsRow :
    State.reset.lif.framer = .hunt ∧ (Record.mk 0x7F#8 0#8 (List.replicate 1024 0#8)).payload.length ≤ 1024 :=
  ⟨rfl, by rw [List.length_replicate]⟩

theorem witness_FramerFollowsTable :
    (State.reset.setFramer .sync).lif.framer = .sync ∧
    (State.reset.setFramer (.header [0#8, 0#8] 5#16)).lif.framer = .header [0#8, 0#8] 5#16 ∧
    [0#8, 0#8].length < 3 ∧
    (State.reset.setFramer (.header [0#8, 0#8, 0#8] 5#16)).lif.framer = .header [0#8, 0#8, 0#8] 5#16 ∧
    (0#8).toNat + 256 * (4#8).toNat ≤ 1024 ∧
    (State.reset.setFramer (.payload 0#8 0#8 1 [] 5#16)).lif.framer = .payload 0#8 0#8 1 [] 5#16 ∧
    (State.reset.setFramer (.check ⟨0#8, 0#8, []⟩ 5#16 none)).lif.framer = .check ⟨0#8, 0#8, []⟩ 5#16 none :=
  ⟨rfl, rfl, by decide, rfl, by decide, rfl, rfl⟩

theorem witness_ReceiveErrorsDiscard :
    (State.reset.setFramer (.header [0#8, 0#8, 1#8] 5#16)).lif.framer = .header [0#8, 0#8, 1#8] 5#16 ∧
    1024 < (1#8).toNat + 256 * (4#8).toNat ∧
    (State.reset.setFramer (.check ⟨0#8, 0#8, []⟩ 5#16 (some 0#8))).lif.framer =
      .check ⟨0#8, 0#8, []⟩ 5#16 (some 0#8) ∧ (0#8).toNat * 256 + (4#8).toNat ≠ (5#16).toNat ∧
    (State.reset.setFramer (.header [] 5#16)).lif.framer ≠ .hunt ∧
    (State.reset.setFramer (.header [] 5#16)).lif.framer ≠ .sync ∧ State.reset.lif.framer = .hunt ∧
    (State.reset.setFramer .sync).lif.framer = .sync := by decide

theorem witness_OverrunKeepsTheSlot :
    recordOf (.abort 1#8 (List.replicate 1024 0#8)) = some ⟨0x04#8, 1#8, List.replicate 1024 0#8⟩ ∧
    (List.replicate 1024 0#8).length ≤ 1024 ∧ reading.lif.slot ≠ none ∧ reading.arbiterWaits = true :=
  ⟨rfl, by rw [List.length_replicate], by decide, rfl⟩

/-- Four replies wait behind a record that is being sent, and a MARK stands in the slot. -/
def crowded (held : Bool) : State := ((rig .idle).setPins ⟨true, false, false, held⟩).setLif { Lif.initial with
  tx := some ⟨0x40#8, 0#8, []⟩
  replies := [⟨0x81#8, 1#8, []⟩, ⟨0x81#8, 2#8, []⟩, ⟨0x81#8, 3#8, []⟩, ⟨0x81#8, 4#8, []⟩]
  slot := if held then none else some ⟨0x0C#8, 5#8, [1#8, 0#8]⟩ }

theorem witness_FullReplyQueueHoldsTheCommand :
    (recordOf (.identify 1#8 []) = some ⟨0x01#8, 1#8, []⟩ ∧ (crowded true).lif.slot = none ∧
      (crowded true).lif.replies.length = 4 ∧ (crowded true).arbiterWaits = true) ∧
    (crowded false).lif.tx = some ⟨0x40#8, 0#8, []⟩ ∧ (crowded false).pins.linkHold = false ∧
    (crowded false).lif.resetPending = false ∧ (crowded false).cap.afe = none ∧
    (crowded false).lif.replies = ⟨0x81#8, 1#8, []⟩ :: (crowded false).lif.replies.tail ∧
    (crowded false).lif.replies.tail.length < 4 ∧
    (crowded false).lif.slot = some ⟨0x0C#8, 5#8, [1#8, 0#8]⟩ ∧
    ∃ u p, ((crowded false).setLif { (crowded false).lif with
      replies := (crowded false).lif.replies.tail, tx := some ⟨0x81#8, 1#8, []⟩ }).judgeRecord
      ⟨0x0C#8, 5#8, [1#8, 0#8]⟩ = ⟨u, some p⟩ ∧ u.lif.resetPending = false :=
  ⟨by decide, rfl, rfl, rfl, rfl, rfl, by decide, rfl, _, _, rfl, by decide⟩

/-- A report is being sent and another waits, with two producers on the wait list. -/
def sendingReports : State := ((rig .idle).setPins ⟨true, false, false, false⟩).setLif { Lif.initial with
  tx := some ⟨0x43#8, 0#8, []⟩, reports := [⟨0x43#8, 1#8, []⟩], waitList := [.scn, .coe] }

/-- A MARK_REACHED is due. -/
def reachedDue : State := (rig .idle).setScn { (rig .idle).scn with
  due := [.markReached], markers := [⟨1#16, none, true, false⟩] }

theorem witness_ArbiterTakesTheFirstAvailable :
    (sending.lif.tx = some ⟨0x40#8, 0#8, []⟩ ∧ sending.pins.linkHold = false ∧ sending.sendsResetReply = false) ∧
    (sendingReports.lif.tx = some ⟨0x43#8, 0#8, []⟩ ∧ sendingReports.pins.linkHold = false ∧
      sendingReports.lif.resetPending = false ∧ sendingReports.lif.replies = [] ∧
      sendingReports.lif.noticeDue = false ∧ sendingReports.lif.reports = ⟨0x43#8, 1#8, []⟩ :: [] ∧
      sendingReports.lif.waitList = .scn :: [.coe] ∧ Producer.scn ∉ [Producer.coe]) ∧
    reachedDue.coeAdvance = none ∧ reachedDue.testMarker = none ∧ reachedDue.drainCheck = none ∧
    [Producer.cap, .frd, .coe, .scn] = [.cap, .frd, .coe] ++ .scn :: [] ∧
    (∀ q ∈ [Producer.cap, .frd, .coe], reachedDue.hasReport q = false) ∧ reachedDue.hasReport .scn = true ∧
    Producer.scn ∉ reachedDue.lif.waitList := by decide

/-- A marker of no line has just been taken. -/
def markerTaken : State := (rig .idle).setScn { (rig .idle).scn with markers := [⟨1#16, none, false, false⟩] }

theorem witness_ArbiterTakesTheFirstAvailable_settles :
    (((rig .scanning).setFrd { Frd.powerOn with table := [⟨0, .default, .zero,
      some ⟨1, 0, 63, none, false, false, false, 0, 64, 0, true⟩, none⟩] }).coeAdvance.isSome = true) ∧
    (markerTaken.coeAdvance = none ∧ markerTaken.testMarker.isSome = true) ∧
    ((rig .draining).coeAdvance = none ∧ (rig .draining).testMarker = none ∧
      (rig .draining).drainCheck.isSome = true) ∧
    reachedDue.settleStep = some (reachedDue.offer .scn) ∧ (reachedDue.offer .scn).settleStep = none ∧ 1 ≤ 128 := by
  decide

theorem witness_LinkHoldStopsTheArbiter :
    (crowded true).pins.linkHold = true ∧ (crowded true).sendsResetReply = false ∧
    (crowded true).lif.tx = some ⟨0x40#8, 0#8, []⟩ ∧ sending.pins.linkHold = false ∧
    ((crowded true).setLif { (crowded true).lif with tx := none }).lif.tx = none ∧
    ((crowded true).setLif { (crowded true).lif with tx := none }).pins.linkHold = true ∧
    ((crowded true).setLif { (crowded true).lif with tx := none }).lif.replies =
      ⟨0x81#8, 1#8, []⟩ :: (crowded true).lif.replies.tail ∧ (crowded true).lif.slot = none := by decide

/-- A report waits in a full report queue. -/
def eightReports : List Record := List.replicate 8 ⟨0x43#8, 0#8, []⟩

/-- A reached marker waits for room behind a full report queue. -/
def reachedWaits : State := reachedDue.setLif { Lif.initial with reports := eightReports, waitList := [.scn] }

/-- One row of a frame goes out, and a preview row of one segment waits. -/
def putting : State := (((rig .scanning).setCoe { Coe.powerOn with
    step := .sending, frame := some 1, settled := 1, preview := true, rows := [⟨0, [(1#8, 2#8, 3#8)]⟩] }).setFrd
  { Frd.powerOn with table := [⟨0, .default, .zero,
    some ⟨1, 0, 63, none, false, true, false, 0, 64, 0, true⟩, none⟩] }).setRng
  ⟨[⟨0, List.replicate 64 (px 5), List.replicate 64 false, true⟩]⟩

/-- Nothing is being sent while LINK_HOLD is active, and the link holds this. -/
def held (x : Lif) : State := (rig .idle).setLif x

/-- LINK_HOLD has gone from a state, and its notice slot is not due. -/
def unheld (s : State) : State :=
  (s.setPins { s.pins with linkHold := false }).setLif { s.lif with noticeDue := false }

/-- A NOTICE is due. -/
def noticed : State := (held { Lif.initial with noticeDue := true }).setNtu ⟨1#9, 1#9, false⟩

theorem witness_LinkHoldStopsTheArbiter_reply :
    (held Lif.initial).pins.linkHold = true ∧ (held Lif.initial).lif.tx = none ∧
    (∀ s, s = held { Lif.initial with replies := [⟨0x81#8, 1#8, []⟩], slot := some ⟨0x0C#8, 5#8, [1#8, 0#8]⟩ } →
      s.lif.replies = ⟨0x81#8, 1#8, []⟩ :: [] ∧ s.lif.slot = some ⟨0x0C#8, 5#8, [1#8, 0#8]⟩ ∧ s.cap.afe = none ∧
      s.lif.resetPending = false ∧
      ∃ u p, ((s.setPins { s.pins with linkHold := false }).setLif { s.lif with
        replies := [], tx := some ⟨0x81#8, 1#8, []⟩ }).judgeRecord ⟨0x0C#8, 5#8, [1#8, 0#8]⟩ = ⟨u, some p⟩ ∧
        u.lif.resetPending = false) ∧
    (held { Lif.initial with resetPending := true }).lif.resetPending = true ∧
    (held { Lif.initial with resetPending := true }).lif.replies = [] := by
  refine ⟨rfl, rfl, ?_, rfl, rfl⟩
  rintro s rfl
  exact ⟨rfl, rfl, rfl, rfl, _, _, rfl, by decide⟩

theorem witness_LinkHoldStopsTheArbiter_choices :
    (noticed.pins.linkHold = true ∧ noticed.lif.tx = none ∧ noticed.lif.replies = [] ∧
      noticed.lif.resetPending = false ∧ noticed.lif.noticeDue = true ∧
      noticed.ntu.pending &&& noticed.ntu.enabled ≠ 0) ∧
    ((held Lif.initial).lif.noticeDue = false ∧ (held Lif.initial).lif.reports = [] ∧
      (held Lif.initial).takeImage = none ∧ (held Lif.initial).takePreview = none) ∧
    ((held { Lif.initial with reports := eightReports }).lif.reports = ⟨0x43#8, 0#8, []⟩ :: eightReports.tail ∧
      (held { Lif.initial with reports := eightReports }).lif.waitList = [] ∧
      (held { Lif.initial with reports := eightReports }).settleStep = none) ∧
    (reachedWaits.pins.linkHold = true ∧ reachedWaits.lif.tx = none ∧ reachedWaits.lif.replies = [] ∧
      reachedWaits.lif.noticeDue = false ∧ reachedWaits.lif.reports = ⟨0x43#8, 0#8, []⟩ :: eightReports.tail ∧
      reachedWaits.lif.waitList = .scn :: [] ∧ Producer.scn ∉ ([] : List Producer)) ∧
    (putting.pins.linkHold = true ∧ putting.lif = Lif.initial ∧ (unheld putting).takeImage.isSome = true) ∧
    ∀ s, s = putting.setCoe { putting.coe with step := .idle, frame := none } →
      s.lif = Lif.initial ∧ s.takeImage = none ∧ (unheld s).takePreview.isSome = true := by
  refine ⟨by decide, by decide, ⟨rfl, rfl, rfl⟩, by decide, by decide +kernel, ?_⟩
  rintro s rfl
  exact ⟨rfl, rfl, by decide +kernel⟩

theorem witness_SoftResetTakesEffectInEveryBlock : resetting.sendsResetReply = true := by decide

theorem witness_BusyCommandsChangeNothing :
    (Ready (rig .scanning) ∧ kindOf 0x11#8 = some .home ∧ Kind.takenIn .home .scanning = false) ∧
    Ready ((rig .idle).setScn { (rig .idle).scn with due := [.scanEnd] }) ∧
    kindOf 0x0B#8 = some .scanStart ∧ Kind.scanStart ∈ [Kind.scanStart, .home, .move, .calRun] ∧
    ScnReport.scanEnd ∈ ((rig .idle).setScn { (rig .idle).scn with due := [.scanEnd] }).scn.due :=
  ⟨⟨ready_rig _, by decide, by decide⟩, ⟨rfl, by decide, rfl, rfl⟩, by decide, by decide, by decide⟩

theorem witness_BadFormChangesNothing :
    Ready (rig .idle) ∧ kindOf 0x01#8 = some .identify ∧ (rig .idle).refusesNow .identify = false ∧
    [0#8].length ≠ Kind.length .identify [0#8] ∧ kindOf 0x08#8 = some .setup ∧
    (rig .idle).refusesNow .setup = false ∧ (List.replicate 32 2#8).length = Kind.length .setup (List.replicate 32 2#8) ∧
    Kind.choicesOk .setup (List.replicate 32 2#8) = false ∧ 1 < u8 (List.replicate 32 2#8) 28 :=
  ⟨ready_rig _, by decide⟩

theorem witness_UnknownKindsActOnNothing :
    Ready (rig .idle) ∧ kindOf 0x7F#8 = none ∧ kindOf 0x80#8 = none ∧ kindOf 0x00#8 = none :=
  ⟨ready_rig _, by decide⟩

/-- IDENTIFY, STATUS and SOFT_RESET ask only that the link is ready. -/
theorem witness_Ready : Ready (rig .faulted) := ready_rig _

/-- The setup that the payload of test_setup_clamps asks for. -/
def askedSetup : Setup := { Setup.default with w := 8192, lp := 250 }

theorem witness_SetupReplacesTheSetup :
    Ready (rig .idle) ∧ (rig .idle).scn.op = .idle ∧ (setupBytes 0x20#8 100#8).length = 32 ∧
    u8 (setupBytes 0x20#8 100#8) 28 ≤ 1 ∧ u8 (setupBytes 0x20#8 100#8) 29 ≤ 1 ∧
    u8 (setupBytes 0x20#8 100#8) 30 ≤ 1 ∧ (setupOf (setupBytes 0x20#8 100#8)).clamped = askedSetup ∧
    (1 ≤ askedSetup.n ∧ askedSetup.n ≤ 60000) ∧
    (64 ≤ askedSetup.w ∧ askedSetup.w ≤ 8192 ∧ askedSetup.w % 16 = 0) ∧
    (askedSetup.wl < askedSetup.wr ∧ askedSetup.wr ≤ askedSetup.w - 1 ∧ 64 ≤ askedSetup.wr - askedSetup.wl + 1) ∧
    askedSetup.il + 8 ≤ askedSetup.gl ∧ askedSetup.afeAddress ≤ 127 ∧ askedSetup.p0 + askedSetup.n - 1 ≤ 65535 :=
  ⟨ready_rig _, by decide⟩

/-- Payloads that the six tests refuse, one for each, in their order. -/
def refusedSetups : List (List Byte) :=
  [{ Setup.default with n := 0 }, { Setup.default with w := 63 }, { Setup.default with wl := 8129 },
    { Setup.default with il := 217 }, { Setup.default with afeAddress := 128 },
    { Setup.default with p0 := 65535, n := 2 }].map Setup.bytes

theorem witness_SetupNamesTheRefusedField :
    Ready (rig .idle) ∧ (rig .idle).scn.op = .idle ∧
    refusedSetups.map (fun p => (p.length, u8 p 28, u8 p 29, u8 p 30, (setupOf p).clamped.refusedField)) =
      [2, 3, 4, 8, 18, 19].map fun n => (32, 1, 0, 0, some n) := ⟨ready_rig _, by decide⟩

theorem witness_SetupLayoutIsReadBack :
    SetupInRange { Setup.default with p0 := 65535, wr := 63, il := 216, afeAddress := 127 } := by
  constructor <;> decide

theorem witness_ProfileWaitsInThePendingSlot :
    Ready (rig .scanning) ∧ [1#8, 8#8, 1#8, 63#8, 15#8, 15#8, 0#8, 0x20#8, 0#8, 0#8].length = 10 ∧
    u16 [1#8, 8#8, 1#8, 63#8, 15#8, 15#8, 0#8, 0x20#8, 0#8, 0#8] 6 = 8192 := ⟨ready_rig _, by decide⟩

theorem witness_FormatRuleReplacesOneRule :
    Ready (rig .scanning) ∧ [3#8, 1#8, 5#8, 0#8, 5#8, 0#8].length = 6 ∧
    u8 [3#8, 1#8, 5#8, 0#8, 5#8, 0#8] 1 ≤ 1 := ⟨ready_rig _, by decide⟩

theorem witness_ScanStartNeedsThreeConditions :
    Ready (rig .idle) ∧ (rig .idle).scn.op = .idle ∧ (rig .idle).scn.endWaits = false ∧
    (rig .idle).cap.valid = false ∧ (rig .idle).trc.valid = false ∧
    ((rig .idle).setPins ⟨false, false, false, true⟩).pins.holder = false := ⟨ready_rig _, by decide⟩

theorem witness_ScanStartSetsEveryBlock :
    Ready startable ∧ startable.scn.op = .idle ∧ startable.scn.endWaits = false ∧
    startable.cap.valid = true ∧ startable.trc.valid = true ∧ startable.pins.holder = true :=
  ⟨⟨rfl, by decide, rfl, rfl⟩, by decide⟩

/-- Four markers wait. -/
def fourMarkers : State := (scanning [] 5).setScn { (scanning [] 5).scn with
  markers := List.replicate 4 ⟨0#16, some 45, false, false⟩ }

theorem witness_MarkRecordsItsLine :
    (Ready (rig .idle) ∧ (rig .idle).scn.markers = [] ∧ (rig .idle).settleStep = none ∧
      (rig .idle).reportsOpen = true ∧ (rig .idle).scn.markers.length < 4 ∧
      (rig .idle).scn.op ∈ [OpState.idle, .positioning, .calibrating, .stopping, .faulted]) ∧
    (Ready (scanning [] 5) ∧ (scanning [] 5).scn.markers.length < 4 ∧ (scanning [] 5).settleStep = none ∧
      (scanning [] 5).scn.op = .scanning ∧ (scanning [] 5).scn.firstHeld < (scanning [] 5).cap.nextLine) ∧
    (Ready fourMarkers ∧ 4 ≤ fourMarkers.scn.markers.length) ∧
    Ready reachedWaits ∧ reachedWaits.settleStep = none ∧ reachedWaits.scn.op = .idle ∧
    reachedWaits.scn.markers.length < 4 ∧ (∀ m ∈ reachedWaits.scn.markers, m.reached = true) ∧
    Producer.scn ∈ reachedWaits.lif.waitList :=
  ⟨⟨ready_rig _, rfl, rfl, by decide, by decide⟩, ⟨ready_scanning _ _, by decide, rfl, rfl, by decide⟩,
    ⟨⟨rfl, (by decide : 0 < 4), rfl, rfl⟩, by decide⟩, ⟨rfl, (by decide : 0 < 4), rfl, rfl⟩, rfl, by decide⟩

/-- A reached marker is followed by one of line 5, whose line the first line held is at or before. -/
def lineMarkers (held : Nat) : State := (rig .idle).setScn { (rig .idle).scn with
  firstHeld := held, markers := [⟨1#16, none, true, false⟩, ⟨2#16, some 5, false, false⟩] }

theorem witness_MarkRecordsItsLine_reached :
    ((lineMarkers 5).scn.markers = [⟨1#16, none, true, false⟩] ++ ⟨2#16, some 5, false, false⟩ :: [] ∧
      5 ≤ (lineMarkers 5).scn.firstHeld ∧ (lineMarkers 4).scn.firstHeld < 5) ∧
    (reachedDue.scn.due = .markReached :: [] ∧ reachedDue.scn.markers = ⟨1#16, none, true, false⟩ :: []) ∧
    (∀ m ∈ reachedDue.scn.markers, m.reached = true) ∧
    (∀ s, s = (scanning [] 5).setScn { (scanning [] 5).scn with markers := [⟨2#16, some 5, false, false⟩] } →
      s.settleStep = none ∧ s.scn.op.plain = true ∧ s.reportsOpen = true ∧
      s.scn.markers = [⟨2#16, some 5, false, false⟩] ∧ 5 ≤ 44) := by
  refine ⟨by decide, by decide, by decide, ?_⟩
  rintro s rfl
  exact ⟨rfl, by decide⟩

/-- A drain that waits for its carriage to stand, its ring and tables empty. -/
def drainBraking : State := (rigTrc .draining { at_ 9 with braking := true }).setScn { (rig .draining).scn with
  drain := ⟨true, true, true, true, false⟩ }

theorem witness_MarkRecordsItsLine_states :
    (Ready (rig .preparing) ∧ (rig .preparing).settleStep = none ∧ (rig .preparing).scn.markers = [] ∧
      (rig .preparing).scn.op = .preparing ∧ (rig .preparing).reportsOpen = true) ∧
    (Ready drainBraking ∧ drainBraking.settleStep = none ∧ drainBraking.scn.op = .draining ∧
      0 < drainBraking.scn.setup.n ∧ drainBraking.scn.firstHeld < drainBraking.scn.setup.n) ∧
    (∀ s, s = drainBraking.setScn { drainBraking.scn with firstHeld := drainBraking.scn.setup.n } →
      Ready s ∧ s.settleStep = none ∧ s.scn.setup.n ≤ s.scn.firstHeld ∧ s.scn.markers = [] ∧
      s.reportsOpen = true) ∧
    (∀ s, s = rigTrc .stopping { at_ 9 with braking := true } →
      Ready s ∧ s.settleStep = none ∧ s.scn.op ∈ [OpState.idle, .positioning, .calibrating, .stopping, .faulted] ∧
      s.scn.markers = [] ∧ s.reportsOpen = true) ∧
    (∃ m ∈ (lineMarkers 4).scn.markers, m.reached = false) ∧
    (∀ s, s = (scanning [] 5).setScn { (scanning [] 5).scn with firstHeld := 45 } →
      s.settleStep = none ∧ s.cap.nextLine ≤ s.scn.firstHeld ∧ s.scn.markers = []) := by
  refine ⟨⟨ready_rig _, rfl, rfl, rfl, by decide⟩, ⟨⟨rfl, (by decide : 0 < 4), rfl, rfl⟩, rfl, by decide⟩, ?_, ?_,
    by decide, ?_⟩
  · rintro s rfl
    exact ⟨⟨rfl, (by decide : 0 < 4), rfl, rfl⟩, rfl, by decide⟩
  · rintro s rfl
    exact ⟨ready_rigTrc _ _, rfl, by decide⟩
  · rintro s rfl
    exact ⟨rfl, by decide⟩

/-- The same Transport Controller with another cap. -/
def capped (x : Trc) (g : Grade) : Trc := { x with cap := g }

/-- A carriage that stands halted in scan transport with the cap at S0. -/
def halted : Trc := { cruise 300 with motion := .parked, current := .s0, cap := .s0 }

theorem witness_SpeedCapPostsItsDemand :
    (Ready (rig .idle) ∧ (rig .idle).trc.scanOn = false) ∧
    (Ready (rigTrc .scanning (cruise 300)) ∧ (cruise 300).scanOn = true ∧
      (capped (cruise 300) .s3).resolved = (cruise 300).resolved) ∧
    ((capped (cruise 300) .s1).resolved ≠ (cruise 300).resolved ∧
      (capped (cruise 300) .s1).resolved.num < (cruise 300).current.num ∧
      (capped { cruise 300 with cap := .s1, current := .s1 } .s3).resolved = .s3 ∧
      (capped { cruise 300 with cap := .s2, current := .s3 } .s3).resolved = .s3 ∧
      (cruise 300).braking = false ∧ (cruise 300).ramp = none) ∧
    ((capped { cruise 300 with motion := .backtracking } .s1).resolved = .s1) ∧
    (halted.scanOn = true ∧ (capped halted .s1).resolved ≠ halted.resolved ∧ (capped halted .s1).resolved ≠ .s0 ∧
      halted.lampReady = true ∧ halted.holdDone = false) ∧
    ((capped { halted with cap := .s1 } .s0).resolved = .s0 ∧ (Trc.resolved { halted with cap := .s1 }) = .s1) ∧
    ((capped { cruise 65534 with motion := .approaching } .s0).resolved = .s0 ∧
      (cruise 65534).current ≠ .s0 ∧ (cruise 65534).position.toNat < 65535 ∧
      (cruise 1).position.toNat > 0) ∧
    (Ready (scanning [] 5) ∧ (scanning [] 5).trc.scanOn = true ∧ (scanning [] 5).trc.motion = .cruising ∧
      (scanning [] 5).trc.braking = false ∧ (scanning [] 5).trc.resolved ≠ .s0 ∧
      (scanning [] 5).trc.current ≠ .s0 ∧ (scanning [] 5).trc.dir = .forward ∧
      (scanning [] 5).trc.position.toNat < 65535) :=
  ⟨⟨ready_rig _, rfl⟩, ⟨ready_rigTrc _ _, by decide⟩, by decide, by decide, by decide, by decide, by decide,
    ready_scanning _ _, by decide⟩

theorem witness_LampSwitches :
    Ready (rig .idle) ∧ (rig .idle).scn.op ∉ [OpState.calibrating, .preparing, .scanning] ∧
    (rig .idle).cap.lamp = .off ∧ startable.cap.lamp ≠ .off ∧
    startable.scn.op ∉ [OpState.calibrating, .preparing, .scanning] := ⟨ready_rig _, by decide⟩

theorem witness_HomeBeginsToSeek :
    Ready (rig .faulted) ∧ (rig .faulted).scn.op = .faulted ∧ (rig .faulted).scn.endWaits = false ∧
    (rig .faulted).trc.braking = false := ⟨ready_rig _, by decide⟩

/-- The carriage still brakes in IDLE, as after an END of its operation. -/
def stillBraking (op : OpState) : State := rigTrc op { at_ 9 with motion := .moving, braking := true, brakesLeft := 2 }

/-- HOME, MOVE and CAL_RUN taken while the carriage still brakes: queued, and POSITIONING (R130; log 11). -/
theorem witness_CommandsOfABrakingCarriage :
    (Ready (stillBraking .faulted) ∧ (stillBraking .faulted).scn.op = .faulted ∧
      (stillBraking .faulted).scn.endWaits = false ∧ (stillBraking .faulted).trc.braking = true) ∧
    Ready (stillBraking .idle) ∧ (stillBraking .idle).scn.op = .idle ∧ (stillBraking .idle).scn.endWaits = false ∧
    (stillBraking .idle).trc.braking = true ∧ (stillBraking .idle).trc.valid = true ∧
    u8 [9#8, 0#8, 8#8, 0#8, 0#8] 2 ∈ [8, 16, 32] :=
  ⟨⟨ready_rigTrc _ _, by decide⟩, ready_rigTrc _ _, by decide⟩

theorem test_home_while_braking : after (.home 1#8 []) (stillBraking .faulted) (fun t =>
    (t.scn.op, t.trc.valid, decide (t.trc.queued = some .home), lastReply t)) =
    some (.positioning, false, true, some [0#8, 1#8, 1#8]) := by decide

theorem witness_MoveBeginsOrArrives :
    (Ready (rigTrc .idle (at_ 9)) ∧ (rigTrc .idle (at_ 9)).scn.op = .idle ∧
      (rigTrc .idle (at_ 9)).scn.endWaits = false ∧ (rigTrc .idle (at_ 9)).trc.braking = false ∧
      (rigTrc .idle (at_ 9)).cap.cal = none ∧ (rigTrc .idle (at_ 9)).trc.valid = true ∧
      (rigTrc .idle (at_ 9)).trc.position.toNat = u16 [9#8, 0#8] 0 ∧
      (rigTrc .idle (at_ 9)).trc.position.toNat ≠ u16 [0xFF#8, 0xFF#8] 0) ∧
    Ready (rig .idle) ∧ (rig .idle).trc.valid = false :=
  ⟨⟨ready_rigTrc _ _, by decide⟩, ready_rig _, rfl⟩

theorem witness_TransfersStart :
    Ready (rig .idle) ∧ (rig .idle).atRest ∧ (rig .idle).scn.op = .idle := ⟨ready_rig _, .inl rfl, rfl⟩

theorem witness_TransfersEndWithTheReply :
    (rig .idle).cap.afe = none ∧ reading.cap.afe = some ⟨false, 0x2C, 2#8, 0#8⟩ ∧
    reading.lif.slot = some ⟨0x15#8, 4#8, [2#8]⟩ ∧ reading.lif.resetPending = false ∧
    some AfeByte.register ≠ some .data := by decide

theorem witness_CalRunBegins :
    (Ready (rigTrc .idle (at_ 9)) ∧ [9#8, 0#8, 8#8, 0#8, 0#8].length = 5 ∧ (rigTrc .idle (at_ 9)).scn.op = .idle ∧
      (rigTrc .idle (at_ 9)).scn.endWaits = false ∧ (rigTrc .idle (at_ 9)).trc.braking = false ∧
      u8 [9#8, 0#8, 8#8, 0#8, 0#8] 2 ∈ [8, 16, 32] ∧ (rigTrc .idle (at_ 9)).trc.valid = true ∧
      (rigTrc .idle (at_ 9)).trc.position.toNat = u16 [9#8, 0#8, 8#8, 0#8, 0#8] 0 ∧
      (rigTrc .idle (at_ 9)).trc.position.toNat ≠ u16 [8#8, 0#8, 32#8, 0#8, 0#8] 0) ∧
    u8 [9#8, 0#8, 33#8, 0#8, 0#8] 2 ∉ [8, 16, 32] ∧ Ready (rig .idle) ∧ (rig .idle).trc.valid = false :=
  ⟨⟨ready_rigTrc _ _, by decide⟩, by decide, ready_rig _, rfl⟩

/-- A CAL_LOAD payload of a segment at column 0, its values all 0. -/
def loadBytes (count : Nat) : List Byte :=
  [0#8, 0#8, 0#8, 0#8, 0#8] ++ le16 count ++ List.replicate (2 * count) 0#8

theorem witness_CalLoadWritesItsSegment :
    Ready (rig .idle) ∧ (rig .idle).scn.op = .idle ∧ (rig .idle).cap.tablesWf = true ∧
    (loadBytes 256).length = 7 + 2 * u16 (loadBytes 256) 5 ∧ u16 (loadBytes 256) 5 = 256 ∧
    (loadBytes 256).length ≤ 1024 ∧ (loadBytes 257).length = 7 + 2 * u16 (loadBytes 257) 5 ∧
    256 < u16 (loadBytes 257) 5 ∧ (loadBytes 257).length ≤ 1024 ∧ u8 (loadBytes 257) 0 ≤ 3 ∧
    u8 (loadBytes 257) 1 ≤ 1 ∧ u8 (loadBytes 257) 2 ≤ 1 ∧
    u16 (loadBytes 256) 3 + u16 (loadBytes 256) 5 ≤ (rig .idle).scn.setup.w := by
  refine ⟨ready_rig _, rfl, by decide, ?_, by decide, ?_, ?_, by decide, ?_, by decide, by decide, by decide,
    by decide⟩ <;> rw [loadBytes, List.length_append, List.length_replicate] <;> decide

/-- A CAL_READ payload at column 0. -/
def readBytes (count : Nat) : List Byte := [0#8, 0#8, 0#8, 0#8] ++ le16 count

theorem witness_CalReadReportsTheTable :
    Ready (rig .scanning) ∧ (rig .scanning).scn.op ≠ .idle ∧ Ready (rig .idle) ∧ (rig .idle).scn.op = .idle ∧
    (readBytes 0).length = 6 ∧ u8 (readBytes 0) 0 ≤ 3 ∧ u8 (readBytes 0) 1 ≤ 1 ∧
    [0, 1, 256, 257].map (fun n => u16 (readBytes n) 4) = [0, 1, 256, 257] ∧
    u16 (readBytes 256) 2 + u16 (readBytes 256) 4 ≤ (rig .idle).scn.setup.w :=
  ⟨ready_rig _, by decide, ready_rig _, by decide⟩

theorem witness_CauseCommands :
    Ready (rig .scanning) ∧ [0xFF#8, 1#8].length = 2 ∧ u16 [0xFF#8, 1#8] 0 < 512 ∧
    ¬u16 [0#8, 2#8] 0 < 512 := ⟨ready_rig _, by decide⟩

/-- A MOVE under way at a position. -/
def movingAt (position : Half) : State :=
  rigTrc .positioning { at_ position with motion := .moving, target := some 30000, interval := 1000 }

/-- A drain that is over, its SCAN_END waiting for room. -/
def drained : State := ((rig .draining).setScn { (rig .draining).scn with
    endReason := some .complete, due := [.scanEnd] }).setLif
  { Lif.initial with reports := eightReports, waitList := [.scn] }

/-- The move of a calibration run. -/
def calMove : State := (movingAt 65534).setCap { Cap.powerOn with cal := some (CalRun.start 8 60000) }

/-- A HOME move whose edge has arrived with the command being run and waits behind it. -/
def edgeThere : State := (seeking 3).setPending [.homeEdge]

theorem witness_AbortOutsideAScan :
    (Ready (rig .idle) ∧ (rig .idle).settleStep = none) ∧
    (Ready (rigTrc .faulted { at_ 9 with braking := true }) ∧
      (rigTrc .faulted { at_ 9 with braking := true }).settleStep = none) ∧
    (Ready (rigTrc .stopping { at_ 9 with braking := true }) ∧
      (rigTrc .stopping { at_ 9 with braking := true }).settleStep = none) ∧
    (Ready drained ∧ drained.settleStep = none ∧ drained.scn.op = .draining ∧ drained.scn.endReason ≠ none) ∧
    (Ready (movingAt 65534) ∧ (movingAt 65534).settleStep = none ∧ (movingAt 65534).scn.op = .positioning ∧
      (movingAt 65534).cap.cal = none ∧ (movingAt 65534).trc.motion = .moving ∧
      (movingAt 65534).trc.braking = false ∧ 0 < (movingAt 65534).trc.position.toNat ∧
      (movingAt 65534).trc.position.toNat < 65535) ∧
    (Ready (seeking 3) ∧ (seeking 3).settleStep = none ∧ (seeking 3).trc.motion = .homing ∧
      (seeking 3).edgeWaits = false ∧ (seeking 3).trc.valid = false) ∧
    (Ready calMove ∧ calMove.settleStep = none ∧ calMove.cap.cal = some (CalRun.start 8 60000) ∧
      calMove.reportsOpen = true ∧ calMove.scn.op = .positioning) ∧
    (Ready edgeThere ∧ edgeThere.settleStep = none ∧ edgeThere.scn.op = .positioning ∧ edgeThere.edgeWaits = true ∧
      edgeThere.cap.cal = none ∧ .scanEnd ∉ edgeThere.scn.due ∧ edgeThere.cap.report = none) ∧
    Ready (calibrating .darkSettle) ∧ (calibrating .darkSettle).settleStep = none ∧
    (calibrating .darkSettle).scn.op = .calibrating ∧ (calibrating .darkSettle).trc.motion = .parked ∧
    (calibrating .darkSettle).trc.braking = false ∧ (calibrating .darkSettle).reportsOpen = true :=
  ⟨⟨ready_rig _, rfl⟩, ⟨ready_rigTrc _ _, rfl⟩, ⟨ready_rigTrc _ _, rfl⟩,
    ⟨⟨rfl, (by decide : 0 < 4), rfl, rfl⟩, rfl, by decide⟩, ⟨ready_rigTrc _ _, rfl, by decide⟩,
    ⟨ready_rigTrc _ _, rfl, by decide⟩, ⟨⟨rfl, (by decide : 0 < 4), rfl, rfl⟩, rfl, by decide⟩,
    ⟨⟨rfl, (by decide : 0 < 4), rfl, rfl⟩, rfl, by decide⟩, ⟨rfl, (by decide : 0 < 4), rfl, rfl⟩, rfl, by decide⟩

/-- A MOVE under way at the ends of the range, and one that waits for a braking to end. -/
theorem witness_AbortOutsideAScan_edges :
    ((movingAt 0).trc.valid = true ∧ (movingAt 0).trc.dir = .forward ∧ (movingAt 0).trc.position.toNat < 65535 ∧
      (movingAt 0).trc.motion = .moving) ∧
    ((rigTrc .positioning { at_ 65535 with motion := .moving, target := some 9, dir := .backward }).trc.dir = .backward ∧
      0 < (at_ 65535).position.toNat) ∧
    Ready (rigTrc .positioning { at_ 9 with braking := true, queued := some (.move 3) }) ∧
    (rigTrc .positioning { at_ 9 with braking := true, queued := some (.move 3) }).settleStep = none ∧
    (rigTrc .positioning { at_ 9 with braking := true, queued := some (.move 3) }).cap.cal = none :=
  ⟨by decide, by decide, ready_rigTrc _ _, rfl, rfl⟩

theorem witness_AbortAndHolderStopTheScan :
    Ready (scanning [] 5) ∧ (scanning [] 5).scn.op = .scanning ∧ (scanning [] 5).pins.holder = true ∧
    (rig .preparing).scn.op = .preparing ∧ Ready (rig .preparing) ∧ Ready (rig .draining) ∧
    (rig .draining).scn.op = .draining ∧ (rig .draining).scn.endReason = none :=
  ⟨ready_scanning _ _, rfl, rfl, rfl, ready_rig _, ready_rig _, rfl, rfl⟩

theorem witness_HolderOutsideAScan :
    (Quiet (rig .idle) ∧ (rig .idle).scn.op ≠ .preparing ∧ (rig .idle).scn.op ≠ .scanning ∧
      (rig .idle).pins.holder = true) ∧
    (Quiet ((rig .faulted).setPins ⟨false, false, false, true⟩) ∧
      ((rig .faulted).setPins ⟨false, false, false, true⟩).pins.holder = false) ∧
    (Quiet (rigTrc .stopping { at_ 9 with braking := true })) ∧
    Quiet (drained.setPins (rig .idle).pins) ∧ drained.scn.endReason ≠ none :=
  ⟨⟨quiet_of rfl rfl, by decide, by decide, rfl⟩, ⟨quiet_of rfl rfl, rfl⟩, quiet_of rfl rfl, quiet_of rfl rfl,
    by decide⟩

/-- A HOME move that leaves the HOME input. -/
def leaving : State := ((seeking 3).setTrc { (seeking 3).trc with
  dir := .forward, homing := some ⟨.leaving, 3⟩ }).setPins ⟨true, true, false, true⟩

theorem witness_HomingFollowsTheInput :
    (Quiet (seeking 65534) ∧ (seeking 65534).scn.op = .positioning ∧ (seeking 65534).cap.cal = none ∧
      (seeking 65534).trc.braking = false ∧ (seeking 65534).trc.motion = .homing ∧
      (seeking 65534).trc.homing = some ⟨.seeking, 65534⟩ ∧
      (seeking 65534).trc.dir = .backward ∧ (seeking 65534).trc.valid = false ∧
      (seeking 65534).cap.gateOpen = false ∧ (seeking 65534).reportsOpen = true) ∧
    (Quiet (seeking 3) ∧ (seeking 3).trc.homing = some ⟨.seeking, 3⟩ ∧ (seeking 3).pins.home = false) ∧
    (Quiet leaving ∧ leaving.scn.op = .positioning ∧ leaving.trc.motion = .homing ∧
      leaving.trc.homing = some ⟨.leaving, 3⟩) ∧
    (Quiet (leaving.setTrc { leaving.trc with homing := some ⟨.leaving, 65534⟩ }) ∧ leaving.trc.dir = .forward ∧
      leaving.pins.endStop = false ∧ leaving.trc.valid = false ∧ leaving.reportsOpen = true) ∧
    Quiet (movingAt 5) ∧ (movingAt 5).scn.op = .positioning ∧ (movingAt 5).trc.motion ≠ .homing :=
  ⟨⟨quiet_of rfl rfl, by decide⟩, ⟨quiet_of rfl rfl, by decide⟩, ⟨quiet_of rfl rfl, by decide⟩,
    ⟨quiet_of rfl rfl, by decide⟩, quiet_of rfl rfl, by decide⟩

/-- The level alone follows: in a drain, in STOPPING, in the move of a calibration run, and while a HOME brakes. -/
theorem witness_HomingFollowsTheInput_level :
    (Quiet drainBraking ∧ drainBraking.trc.motion ≠ .homing ∧ drainBraking.trc.braking = true) ∧
    (∀ s, s = rigTrc .stopping { (seeking 3).trc with braking := true } → Quiet s ∧ s.trc.motion = .homing ∧ s.trc.braking = true) ∧
    (Quiet calMove ∧ calMove.trc.motion ≠ .homing) ∧ leaving.pins.home = true ∧
    leaving.trc.homing.map (·.phase) ≠ some .seeking ∧ (seeking 3).trc.homing.map (·.phase) ≠ some .leaving :=
  ⟨⟨quiet_of rfl rfl, by decide⟩, fun _ h => h ▸ ⟨quiet_of rfl rfl, by decide⟩, ⟨quiet_of rfl rfl, by decide⟩,
    by decide⟩

theorem witness_EndEdgeStopsTheCarriage :
    (Quiet (rig .idle) ∧ (rig .idle).trc.motion = .parked ∧ (rig .idle).trc.braking = false) ∧
    (Quiet (movingAt 5) ∧ (movingAt 5).trc.motion ≠ .parked ∧ (movingAt 5).scn.op = .positioning ∧
      (movingAt 5).cap.cal = none ∧ (movingAt 5).reportsOpen = true) ∧
    (Quiet (calMove.setLif { Lif.initial with reports := List.replicate 6 ⟨0x43#8, 0#8, []⟩ }) ∧
      calMove.cap.cal = some (CalRun.start 8 60000) ∧ calMove.scn.op = .positioning) ∧
    (Quiet (rigTrc .stopping { at_ 9 with braking := true }) ∧
      .scanEnd ∉ (rigTrc .stopping { at_ 9 with braking := true }).scn.due ∧
      (rigTrc .stopping { at_ 9 with braking := true }).cap.report = none) ∧
    (Quiet (rigTrc .faulted { at_ 9 with braking := true }) ∧
      (rigTrc .faulted { at_ 9 with braking := true }).scanRuns = false) ∧
    (scanning [] 5).trc.motion ≠ .parked ∧ (scanning [] 5).scn.op = .scanning :=
  ⟨⟨quiet_of rfl rfl, by decide⟩, ⟨quiet_of rfl rfl, by decide⟩, ⟨quiet_of rfl rfl, by decide⟩,
    ⟨quiet_of rfl rfl, by decide⟩, ⟨quiet_of rfl rfl, by decide⟩, by decide⟩

/-- A MOVE toward 0 at a position. -/
def movingBack (position target : Nat) : State := rigTrc .positioning
  { at_ (half position) with motion := .moving, target := some target, dir := .backward, interval := 1000 }

theorem witness_MotorStepMovesTheCarriage :
    ((calMove.setPins ⟨true, false, true, true⟩).trc.motion = .moving ∧ calMove.trc.dir = .forward ∧
      calMove.trc.braking = false) ∧
    (Quiet (movingAt 65534) ∧ (movingAt 65534).scn.op = .positioning ∧ (movingAt 65534).cap.cal = none ∧
      (movingAt 65534).cap.gateOpen = false ∧ (movingAt 65534).trc.motion = .moving ∧
      (movingAt 65534).trc.braking = false ∧ (movingAt 65534).trc.valid = true ∧
      (movingAt 65534).trc.target = some 30000 ∧ (movingAt 65534).trc.dir = .forward ∧
      (movingAt 65534).pins.endStop = false ∧ (movingAt 65534).trc.position.toNat < 65535) ∧
    (Quiet (movingBack 1 0) ∧ (movingBack 1 0).scn.op = .positioning ∧ (movingBack 1 0).trc.target = some 0 ∧
      (movingBack 1 0).trc.dir = .backward ∧ 0 < (movingBack 1 0).trc.position.toNat ∧
      ((movingBack 1 0).trc.position - 1).toNat = 0) ∧
    (Quiet (calMove.setTrc { calMove.trc with target := some 65535 }) ∧ calMove.cap.cal.isSome = true ∧
      (calMove.trc.position + 1).toNat = 65535) ∧
    Quiet (seeking 65533) ∧ (seeking 65533).trc.valid = false ∧ (seeking 65533).trc.dir = .backward ∧
    (seeking 65533).trc.motion = .homing ∧ 65533 + 1 < 65535 :=
  ⟨by decide, ⟨quiet_of rfl rfl, by decide⟩, ⟨quiet_of rfl rfl, by decide⟩, ⟨quiet_of rfl rfl, by decide⟩,
    quiet_of rfl rfl, by decide⟩

/-- A carriage in scan transport one step before its resume position. -/
def approaching (op : OpState) : State := rigTrc op { cruise 65534 with
  motion := .approaching, target := some 65535, resumeLine := 3, resumePos := 65535 }

/-- A scan whose line is complete and whose next is not begun. -/
def between : State := (scanning [] 5).setCap { (scanning [] 5).cap with inFlight := none, watchdog := false }

/-- A carriage in scan transport that runs back toward 0. -/
def backing (position : Half) : State := rigTrc .scanning { cruise position with
  motion := .backtracking, target := some 0, dir := .backward, current := .s0, resumePos := 40 }

theorem witness_MotorStepStartsLines :
    (Quiet (backing 1) ∧ (backing 1).trc.braking = false ∧ (backing 1).cap.inFlight = none ∧
      (backing 1).trc.motion = .backtracking ∧ (backing 1).scn.op = .scanning ∧ (backing 1).cap.gateOpen = false ∧
      (backing 1).trc.dir = .backward ∧ 0 < (backing 1).trc.position.toNat ∧
      (backing 1).trc.target = some ((backing 1).trc.position - 1).toNat) ∧
    (Quiet (backing 65535) ∧ (backing 65535).trc.target ≠ some ((backing 65535).trc.position - 1).toNat) ∧
    (Quiet (approaching .preparing) ∧ (approaching .preparing).trc.braking = false ∧
      (approaching .preparing).trc.dir = .forward ∧ (approaching .preparing).pins.endStop = false ∧
      (approaching .preparing).trc.position.toNat < 65535 ∧ (approaching .preparing).cap.inFlight = none ∧
      (approaching .preparing).trc.motion = .approaching ∧
      (approaching .preparing).trc.position.toNat + 1 = (approaching .preparing).trc.resumePos ∧
      (approaching .preparing).trc.ring ≠ .s0 ∧ (approaching .preparing).trc.table ≠ .s0 ∧
      (approaching .preparing).scn.op = .preparing) ∧
    (Quiet (rigTrc .scanning { cruise 0 with motion := .approaching, resumePos := 0 }) ∧
      Quiet (rigTrc .scanning { cruise 0 with motion := .approaching, resumePos := 2 })) ∧
    Quiet between ∧ between.trc.braking = false ∧ between.trc.dir = .forward ∧ between.pins.endStop = false ∧
    between.trc.position.toNat < 65535 ∧ between.cap.inFlight = none ∧ between.trc.motion = .cruising ∧
    between.cap.gateOpen = true ∧ between.scn.op = .scanning :=
  ⟨⟨quiet_of rfl rfl, by decide⟩, ⟨quiet_of rfl rfl, by decide⟩, ⟨quiet_of rfl rfl, by decide⟩,
    ⟨quiet_of rfl rfl, quiet_of rfl rfl⟩, quiet_of rfl rfl, by decide⟩

/-- A FAULT of a late line waits behind a full report queue. -/
def faultDue : State := (rigTrc .faulted { at_ 9 with braking := true }).setScn { (rig .faulted).scn with
  due := [.fault ⟨.lineLate, .scanning, 44⟩, .scanEnd] }

theorem witness_LateLinesEndTheOperation :
    (rig .idle).cap.watchdog = false ∧
    ((scanning [] 5).scn.op = .scanning ∧ (scanning [] 5).cap.inFlight = some ⟨44, []⟩ ∧
      (scanning [] 5).cap.watchdog = true ∧ (scanning [] 5).cap.gateOpen = true ∧
      (scanning [] 5).trc.motion = .cruising ∧ (scanning [] 5).trc.braking = false ∧
      (scanning [] 5).trc.dir = .forward ∧ (scanning [] 5).pins.endStop = false ∧
      (scanning [] 5).trc.position.toNat < 65535) ∧
    faultDue.scn.due = .fault ⟨.lineLate, .scanning, 44⟩ :: [.scanEnd] ∧
    darkLine.scn.op = .calibrating ∧ darkLine.cap.cal.isSome = true ∧ darkLine.cap.inFlight.isSome = true ∧
    darkLine.trc.motion = .parked ∧ darkLine.trc.braking = false ∧ darkLine.cap.watchdog = true ∧
    darkLine.cap.calTimer = true := by decide

/-- A carriage that brakes with so many steps to come. -/
def brakingAt (op : OpState) (position : Nat) (dir : Dir) (left : Nat) : State :=
  rigTrc op { at_ (half position) with motion := .moving, braking := true, dir := dir, brakesLeft := left }

/-- A halted carriage with one braking step to come. -/
def halting (x : Trc) : State := rigTrc .scanning { x with
  motion := .cruising, braking := true, current := .s0, brakesLeft := 1 }

theorem witness_BrakingStepsEndInTheStop :
    (brakingAt .idle 9 .forward 2).trc.braking = true ∧
    (Quiet (rigTrc .idle (at_ 65533)) ∧ (rigTrc .idle (at_ 65533)).cap.gateOpen = false ∧
      (rigTrc .idle (at_ 65533)).trc.valid = true ∧ (rigTrc .idle (at_ 65533)).trc.dir = .forward ∧
      (rigTrc .idle (at_ 65533)).trc.position.toNat < 65534 ∧ (rigTrc .idle (at_ 65533)).trc.braking = false) ∧
    (Quiet (brakingAt .stopping 2 .backward 2) ∧ (brakingAt .stopping 2 .backward 2).trc.valid = true ∧
      1 < (brakingAt .stopping 2 .backward 2).trc.position.toNat ∧
      2 ≤ (brakingAt .stopping 2 .backward 2).trc.brakesLeft) ∧
    (Quiet (brakingAt .stopping 65533 .forward 1) ∧ (brakingAt .stopping 65533 .forward 1).trc.brakesLeft = 1 ∧
      (brakingAt .stopping 65533 .forward 1).trc.scanOn = false ∧
      (brakingAt .stopping 65533 .forward 1).trc.queued = none ∧
      (brakingAt .stopping 65533 .forward 1).pins.endStop = false ∧
      .scanEnd ∉ (brakingAt .stopping 65533 .forward 1).scn.due ∧
      (brakingAt .stopping 65533 .forward 1).cap.report = none) ∧
    (Quiet (brakingAt .faulted 9 .forward 1) ∧ OpState.plain .faulted = true) ∧
    (Quiet (halting (cruise 300)) ∧ (halting (cruise 300)).trc.queued = none ∧
      (halting (cruise 300)).trc.scanOn = true ∧ (halting (cruise 300)).trc.lampReady = true ∧
      (halting (cruise 300)).trc.resolved ≠ .s0 ∧ OpState.plain .scanning = true ∧
      Quiet (halting { cruise 207 with holdDone := true }) ∧ (207#16 + 1).toNat = 256 - 48 ∧
      Quiet (halting { cruise 300 with holdDone := true, ring := .s0 })) ∧
    (Quiet (rigTrc .positioning { (brakingAt .idle 9 .forward 1).trc with queued := some .home, valid := false }) ∧
      Quiet (rigTrc .positioning { (brakingAt .idle 9 .forward 1).trc with queued := some (.move 10) }) ∧
      (half 9 + 1).toNat = 10 ∧
      Quiet (rigTrc .positioning { (brakingAt .idle 9 .forward 1).trc with queued := some (.move 65535) })) ∧
    Quiet ((brakingAt .draining 9 .forward 1).setScn { (rig .draining).scn with
      drain := ⟨true, true, true, true, false⟩ }) ∧
    (brakingAt .draining 9 .forward 1).scn.endReason = none ∧ (rig .draining).rng.lines = [] ∧
    (rig .draining).frd.table = [] ∧ (rig .draining).dfd.regions = [] ∧ (rig .draining).coe.rows = [] ∧
    (rig .draining).scn.markers = [] ∧ (rig .draining).reportsOpen = true :=
  ⟨rfl, ⟨quiet_of rfl rfl, by decide⟩, ⟨quiet_of rfl rfl, by decide⟩, ⟨quiet_of rfl rfl, by decide⟩,
    ⟨quiet_of rfl rfl, rfl⟩,
    ⟨quiet_of rfl rfl, rfl, rfl, rfl, by decide, rfl, quiet_of rfl rfl, by decide, quiet_of rfl rfl⟩,
    ⟨quiet_of rfl rfl, quiet_of rfl rfl, by decide, quiet_of rfl rfl⟩, quiet_of rfl rfl, by decide⟩

/-- A carriage in scan transport whose hold timer runs. -/
def holding (x : Trc) : State := rigTrc .preparing { x with hold := true }

theorem witness_HoldTimerRaisesOrResumes :
    (Quiet (rig .idle) ∧ (rig .idle).scn.op.plain = true ∧ (rig .idle).trc.hold = false) ∧
    (Quiet (holding { cruise 9 with motion := .approaching, current := .s1 }) ∧
      (holding { cruise 9 with motion := .approaching, current := .s1 }).trc.braking = false) ∧
    (Quiet (holding { cruise 9 with braking := true, current := .s0 }) ∧
      (holding { cruise 9 with braking := true, current := .s0 }).trc.scanOn = true) ∧
    (Quiet (holding { cruise 208 with motion := .parked, current := .s0 }) ∧
      (holding { cruise 208 with motion := .parked, current := .s0 }).trc.resolved ≠ .s0 ∧
      (holding { cruise 208 with motion := .parked, current := .s0 }).trc.position.toNat =
        (holding { cruise 208 with motion := .parked, current := .s0 }).trc.resumePos - 48) ∧
    Quiet (holding { cruise 209 with motion := .parked, current := .s0 }) :=
  ⟨⟨quiet_of rfl rfl, by decide⟩, ⟨quiet_of rfl rfl, by decide⟩, ⟨quiet_of rfl rfl, by decide⟩,
    ⟨quiet_of rfl rfl, by decide⟩, quiet_of rfl rfl⟩

theorem witness_RampStepsMoveTheGrade :
    (Quiet (rig .idle) ∧ (rig .idle).trc.ramp = none) ∧
    Quiet (rigTrc .preparing { cruise 9 with motion := .approaching, ramp := some .s3, current := .s2 }) ∧
    OpState.plain .preparing = true ∧ Grade.num .s2 < Grade.num .s3 ∧ Grade.num .s3 = Grade.num .s2 + 1 ∧
    Quiet (rigTrc .preparing { cruise 9 with motion := .approaching, ramp := some .s1, current := .s3 }) ∧
    Grade.num .s1 < Grade.num .s3 ∧ Grade.num .s2 + 1 = Grade.num .s3 :=
  ⟨⟨quiet_of rfl rfl, rfl⟩, quiet_of rfl rfl, by decide, by decide, by decide, quiet_of rfl rfl, by decide, by decide⟩

theorem witness_PixelsFillTheLineInFlight :
    (Quiet between ∧ between.cap.inFlight = none) ∧
    (Quiet (scanning [] 5) ∧ (scanning [] 5).scn.op.plain = true ∧ (scanning [] 5).cap.inFlight = some ⟨44, []⟩ ∧
      0 + (List.replicate 63 (px 1)).length < (scanning [] 5).scn.setup.w) ∧
    ((scanning [] 1).arbiterWaits = true ∧ (scanning [] 1).scn.op = .scanning ∧
      (scanning [] 1).cap.cal = none ∧ (scanning [] 1).scn.setup.w ≤ 0 + (List.replicate 64 (px 1)).length ∧
      1 ≤ (scanning [] 1).cap.remaining ∧ (scanning [] 1).cap.remaining = 1 ∧
      (scanning [] 1).cap.inFlight = some ⟨44, []⟩ ∧ (scanning [] 2).cap.inFlight = some ⟨44, []⟩ ∧ 2 ≤ (scanning [] 2).cap.remaining) :=
  ⟨⟨quiet_of rfl rfl, rfl⟩, ⟨quiet_of rfl rfl, by decide⟩, by decide⟩

theorem witness_GainsFollowTheStrongColumns :
    [1023, 1024, 5].length = 3 ∧ 1024 ≤ [1023, 1024, 5].getD 1 0 ∧ [1023, 1024, 5].getD 0 0 < 1024 ∧
    [1023, 1024, 5].getD 2 0 < 1024 ∧ [1023].getD 0 0 < 1024 := by decide

/-- Five image-like lines have come in GAP, and 48 lines are handled. -/
def fiveImageLines : State :=
  ((rig .scanning).setScn { (rig .scanning).scn with setup := { smallSetup with n := 100 } }).setFrd
    { Frd.powerOn with imageRun := 5 }

theorem witness_FramesAreFoundNumberedAndClosed_created :
    fiveImageLines.frd.classifier = .gap ∧
    classify fiveImageLines.setup fiveImageLines.frd.baseG (mean fiveImageLines.setup
      ((window fiveImageLines.setup (List.replicate 64 (px 20000))).map (·.g.toNat))) = .imageLike ∧
    fiveImageLines.frd.imageRun + 1 = fiveImageLines.setup.imageMin ∧ fiveImageLines.setup.imageMin < 32 ∧
    fiveImageLines.setup.imageMin ≤ 5 + 1 ∧ 5 + 1 < fiveImageLines.setup.n := by decide +kernel

/-- A frame past its probe: number 1, no fallback, open. -/
def probed1 (rejected : Bool) : Probed := ⟨1, 0, 63, none, rejected, false, false, 0, 64, 0, true⟩

/-- The Frame Detector in IMAGE with one frame and a count of gap-like lines. -/
def inImage (f : Frame) (gapRun : Nat) : State :=
  ((rig .scanning).setScn { (rig .scanning).scn with setup := { smallSetup with n := 100, mfl := 64 } }).setFrd
    { Frd.powerOn with classifier := .image, table := [f], gapRun := gapRun }

/-- A tentative frame, and one that is open or closed. -/
def tentative (top : Nat) : Frame := ⟨top, .default, .zero, none, none⟩

/-- A frame past its probe. -/
def numbered (top : Nat) (rejected : Bool) : Frame := ⟨top, .default, .zero, some (probed1 rejected), none⟩

theorem witness_FramesAreFoundNumberedAndClosed :
    (40000 * 224 ≤ 35000 * 256 ∧ 34999 * 256 < 40000 * 224 ∧ 40000 * 192 ≤ 30000 * 256 ∧
      29999 * 256 < 40000 * 192 ∧ Setup.default.gl = 224 ∧ Setup.default.il = 192) ∧
    (fiveImageLines.frd.classifier = .gap ∧ (rig .idle).frd.imageRun + 1 < smallSetup.imageMin) ∧
    ((inImage (tentative 9) 4).frd.table = [] ++ [tentative 9] ∧ (inImage (tentative 9) 4).frd.classifier = .image ∧
      4 + 1 < (inImage (tentative 9) 4).setup.gapMin ∧ 4 + 1 + 1 = (inImage (tentative 9) 4).setup.gapMin ∧
      40 + 1 = (tentative 9).top + 32 ∧ 40 + 1 < (inImage (tentative 9) 4).setup.n ∧
      99 + 1 = (inImage (tentative 9) 4).setup.n ∧ (inImage (tentative 9) 4).setup.mfl ≠ 32 ∧
      (inImage (tentative 9) 4).frd.waiting = [] ∧ (inImage (tentative 9) 4).reportsOpen = true ∧
      ((inImage (tentative 9) 4).setLif { Lif.initial with reports := eightReports }).reportsOpen = false) ∧
    ((numbered 0 true).probed = some (probed1 true) ∧ (numbered 0 true).closed = none ∧
      63 + 1 = (numbered 0 true).top + (inImage (numbered 0 true) 0).setup.mfl ∧
      (probed1 true).rejected = true ∧ (probed1 true).passed = false ∧ (probed1 false).rejected = false) := by
  decide

/-- 31 image-like lines have come in GAP with IMAGE_MIN 32. -/
def manyImageLines : State :=
  ((rig .scanning).setScn { (rig .scanning).scn with setup := { smallSetup with n := 100, imageMin := 32 } }).setFrd
    { Frd.powerOn with imageRun := 31 }

/-- A frame created on the scan's last line, a probe that the creating line completes, and one that the scan's last
line completes. -/
theorem witness_FramesAreFoundNumberedAndClosed_last :
    (fiveImageLines.setup.imageMin ≤ 99 + 1 ∧ 99 + 1 = fiveImageLines.setup.n ∧ fiveImageLines.setup.imageMin < 32) ∧
    (manyImageLines.frd.classifier = .gap ∧ manyImageLines.frd.imageRun + 1 = manyImageLines.setup.imageMin ∧
      manyImageLines.setup.imageMin = 32 ∧ 40 + 1 = 40 - 31 + 32 ∧ manyImageLines.setup.mfl ≠ 32 ∧
      manyImageLines.frd.waiting = [] ∧ manyImageLines.reportsOpen = true ∧
      (manyImageLines.post .table .s3).reportsOpen = true) ∧
    ((inImage (tentative 68) 0).frd.table = [] ++ [tentative 68] ∧ (tentative 68).probed = none ∧
      (tentative 68).closed = none ∧ 0 < (inImage (tentative 68) 0).setup.gapMin ∧
      99 + 1 = (tentative 68).top + 32 ∧ 99 + 1 = (inImage (tentative 68) 0).setup.n ∧
      (inImage (tentative 68) 0).setup.mfl ≠ 32) := by
  decide

/-- Edges: all strong, none strong. -/
theorem witness_FramesAreFoundNumberedAndClosed_edges :
    (∀ x, x < 64 → (List.replicate 64 0).getD x 0 * 256 < 40000 * 224 * 32) ∧
    (∀ x, x < 64 → ¬(List.replicate 64 (40000 * 32)).getD x 0 * 256 < 40000 * 224 * 32) ∧
    Setup.default.edge = 224 ∧
    ((⟨true, 64, 64⟩ : FormatRule).enabled = true ∧ 64 ≤ 63 + 1 - 0 ∧ 63 + 1 - 0 ≤ 64) := by decide

/-- 33 runs of one column each. -/
def manyRuns : List Run := (List.range 33).map fun i => ⟨4 * i, 4 * i, 1⟩

/-- A region in a slot, from line 10 on, with a last-line span. -/
def region (slot : Nat) (state : RegionState) : Region :=
  ⟨slot, state, 10, 20, ⟨5, 9⟩, some ⟨5, 9⟩, none, 3, none, none⟩

/-- The Defect Detector with regions, a repair option and a Repair Queue. -/
def tracking (regions : List Region) (repair : Bool) (x : Rpe) : State :=
  (((rig .scanning).setScn { (rig .scanning).scn with
    setup := { smallSetup with n := 100, repair := repair } }).setDfd ⟨[], regions, 0⟩).setRpe x

theorem witness_DefectsAreMaskedAndTracked :
    (32 < manyRuns.length ∧ manyRuns[31]? = some ⟨124, 124, 1⟩ ∧ manyRuns.getLast? = some ⟨128, 128, 1⟩) ∧
    ((∀ r ∈ manyRuns, r.lo ≤ r.hi) ∧ manyRuns.Pairwise (fun a b => a.lo ≤ b.lo)) ∧
    ([region 0 .opened, region 63 .opened].Pairwise (fun a b => a.slot < b.slot)) ∧
    (testSpans [region 0 .opened, region 2 .closing] = [⟨⟨5, 9⟩, 0⟩]) ∧
    (4 ≤ 9 + 1 ∧ 5 ≤ 10 + 1 ∧ ¬(11 ≤ 9 + 1) ∧ ¬(5 ≤ 3 + 1)) ∧
    (73 + 1 - 10 ≤ 64 ∧ 64 < 74 + 1 - 10) ∧
    ((List.range 64).all fun k => ((List.range 64).map fun k => region k .opened).any fun r => r.slot = k) = true ∧
    ([region 0 .opened, region 1 .opened].filter fun _ => true).length = 2 ∧
    ((tracking [region 0 .closing] true ⟨[], none, 0, 0⟩).setup.repair = true ∧
      (tracking [region 0 .closing] true ⟨[], none, 0, 0⟩).rpe.current = none ∧
      (tracking [region 0 .closing] true ⟨[5], some ⟨4, 0, 0, ⟨0, 0⟩⟩, 0, 0⟩).rpe.current ≠ none ∧
      (tracking [region 0 .closing] false ⟨[], none, 0, 0⟩).setup.repair = false ∧
      (tracking [region 0 .closing] true ⟨[], none, 0, 0⟩).dfd.regions = [] ++ region 0 .closing :: []) := by
  decide

/-- A repair is under way with nothing behind it. -/
def repairing : State := (rig .draining).setRpe ⟨[], some ⟨0, 0, 0, ⟨0, 0⟩⟩, 0, 0⟩

/-- A repair is under way with another region behind it. -/
def repairingTwo : State := (tracking [region 0 .repairing, region 63 .ready] true
  ⟨[63], some ⟨0, 10, 20, ⟨5, 9⟩⟩, 0, 0⟩)

theorem witness_RepairWritesMaskedPixelsOnly :
    [RingLine.mk 7 [px 1] [true] true][0]? = some ⟨7, [px 1], [true], true⟩ ∧ (rig .idle).rpe.current = none ∧
    repairing.arbiterWaits = true ∧ repairing.rpe.current = some ⟨0, 0, 0, ⟨0, 0⟩⟩ ∧ repairing.rpe.queue = [] ∧
    (repairingTwo.rpe.current = some ⟨0, 10, 20, ⟨5, 9⟩⟩ ∧ repairingTwo.rpe.queue = 63 :: [] ∧
      repairingTwo.dfd.regions.find? (fun r => r.slot = 0) = some (region 0 .repairing) ∧
      repairingTwo.dfd.regions.find? (fun r => r.slot = 63) = some (region 63 .ready)) := by
  decide

/-- The output frame of `putting`. -/
def outFrame (closed : Option Closed) (next : Nat) : Frame :=
  ⟨0, .default, .zero, some ⟨1, 0, 63, none, false, true, false, 0, 64, next, true⟩, closed⟩

/-- The Crop Output Engine at a step, with one frame. -/
def outputting (step : OutStep) (f : Frame) : State :=
  (putting.setCoe { putting.coe with step := step, frame := if step = .idle then none else some 1 }).setFrd
    { putting.frd with table := [f] }

theorem witness_OutputAndPreviewAreSent :
    (putting.takeImage.isSome = true ∧ putting.takePreview.isSome = true) ∧
    ((outputting .idle (outFrame none 0)).coe.step = .idle ∧
      (outputting .idle (outFrame none 0)).frd.table = [] ++ outFrame none 0 :: []) ∧
    ((outputting .waiting (outFrame none 0)).coe.frame.bind (outputting .waiting (outFrame none 0)).frd.byNumber =
      some (outFrame none 0) ∧
      (outputting .waiting (outFrame none 0)).rowEligible (outFrame none 0)
        ⟨1, 0, 63, none, false, true, false, 0, 64, 0, true⟩ 0 = true ∧
      (outputting .waiting (outFrame none 2)).rowEligible (outFrame none 2)
        ⟨1, 0, 63, none, false, true, false, 0, 64, 2, true⟩ 2 = false) ∧
    ((⟨40, .gap, 44⟩ : Closed).lastRow < 45 ∧ 44 ≤ (⟨40, .gap, 44⟩ : Closed).lastRow ∧
      (outputting .closing (outFrame (some ⟨40, .gap, 44⟩) 45)).coe.step = .closing ∧
      (outputting .closing (outFrame (some ⟨40, .gap, 44⟩) 45)).frd.table =
        [] ++ outFrame (some ⟨40, .gap, 44⟩) 45 :: []) ∧
    (putting.ringLine 0 = some ⟨0, List.replicate 64 (px 5), List.replicate 64 false, true⟩ ∧
      putting.coe.step = .sending ∧ putting.coe.frame = some 1) ∧
    ((putting.setFrd { putting.frd with waiting := [.frameOpen 1 []] }).frd.waiting = .frameOpen 1 [] :: []) ∧
    (putting.coe.preview = true ∧ putting.coe.lineCount < 7 ∧ putting.coe.rows.length < 2 ∧
      (1 : Nat) ≤ 1 ∧ putting.coe.rows = ⟨0, [(1#8, 2#8, 3#8)]⟩ :: [] ∧ (rig .idle).coe.rows = []) := by
  decide +kernel

/-- The lamp warms up in an operation state. -/
def warming (s : State) : State := s.setCap { s.cap with lamp := .warming, warmup := true }

/-- A calibration run at a line of a capture phase, so many lines captured, the lamp as given. -/
def calLineAt (phase : CalPhase) (count : Nat) (lamp : Lamp) : State := darkLine.setCap { darkLine.cap with
  lamp := lamp, calCount := count, cal := some { CalRun.start 8 60000 with phase := phase } }

theorem witness_CalibrationRunAdvances :
    (Quiet (rig .idle) ∧ (rig .idle).cap.warmup = false) ∧
    (Quiet (warming (rig .idle)) ∧ (warming (rig .idle)).cap.warmup = true ∧
      (warming (rig .idle)).cap.cal = none ∧ (warming (rig .idle)).scn.op.plain = true) ∧
    (Quiet (warming (rig .preparing)) ∧ (warming (rig .preparing)).scn.op = .preparing) ∧
    (Quiet (warming (calibrating .warmUp)) ∧ (warming (calibrating .warmUp)).scn.op = .calibrating) ∧
    Quiet (calibrating .darkSettle) ∧
    (Quiet ((calibrating .darkCapture).setCap { (calibrating .darkCapture).cap with calTimer := true }) ∧
      (calibrating .darkCapture).cap.inFlight = none) ∧
    (Quiet (calLineAt .darkCapture 6 .off) ∧ 6 + 1 < 8 ∧
      (calLineAt .darkCapture 6 .off).cap.inFlight = some ⟨0, List.replicate 63 (px 7)⟩) ∧
    (Quiet (calLineAt .darkCapture 7 .off) ∧ 7 + 1 = 8 ∧ (calLineAt .darkCapture 7 .off).cap.lamp = .off) ∧
    (Quiet (calLineAt .whiteCapture 6 .on) ∧ (calLineAt .whiteCapture 6 .on).cap.calCount + 1 < 8) ∧
    (List.replicate 63 (px 7) ++ [px 9]).length = darkLine.scn.setup.w :=
  ⟨⟨quiet_of rfl rfl, rfl⟩, ⟨quiet_of rfl rfl, rfl, rfl, rfl⟩, ⟨quiet_of rfl rfl, rfl⟩, ⟨quiet_of rfl rfl, rfl⟩,
    quiet_of rfl rfl, ⟨quiet_of rfl rfl, rfl⟩, ⟨quiet_of rfl rfl, by decide, rfl⟩, ⟨quiet_of rfl rfl, rfl, rfl⟩,
    ⟨quiet_of rfl rfl, by decide⟩, by decide⟩

/-- The last white line lacks one pixel. -/
def lastWhite : State := darkLine.setCap { darkLine.cap with
  lamp := .on, calCount := 7, cal := some { CalRun.start 8 60000 with phase := .whiteCapture } }

theorem witness_CalibrationResultsAreWritten :
    Quiet lastWhite ∧ lastWhite.reportsOpen = true ∧ lastWhite.scn.op = .calibrating ∧
    lastWhite.cap.cal = some { CalRun.start 8 60000 with phase := .whiteCapture } ∧
    lastWhite.cap.inFlight = some ⟨0, List.replicate 63 (px 7)⟩ ∧
    (List.replicate 63 (px 7) ++ [px 9]).length = lastWhite.scn.setup.w ∧
    lastWhite.cap.calCount + 1 = (CalRun.start 8 60000).lines ∧ lastWhite.cap.report = none :=
  ⟨quiet_of rfl rfl, by decide⟩

/-- A run in its Report phase whose CAL_DONE waits for room, a record on its way out. -/
def resultsWait : State := (((rig .calibrating).setCap { Cap.powerOn with
    cal := some { CalRun.start 8 60000 with phase := .report }
    report := some ⟨.passed, 8, 60000, .const 0, true⟩ }).setPins ⟨true, false, false, false⟩).setLif { Lif.initial with
  tx := some ⟨0x43#8, 0#8, []⟩, reports := eightReports, waitList := [.cap] }

theorem witness_CalibrationResultsAreWritten_waiting :
    (∀ s, s = lastWhite.setLif { Lif.initial with reports := eightReports } →
      Quiet s ∧ s.lif.reports.length = 8 ∧ .cap ∉ s.lif.waitList ∧ s.scn.op = .calibrating ∧
      s.cap.cal = some { CalRun.start 8 60000 with phase := .whiteCapture } ∧
      s.cap.inFlight = some ⟨0, List.replicate 63 (px 7)⟩ ∧ s.cap.report = none) ∧
    resultsWait.settleStep = none ∧ resultsWait.scn.op = .calibrating ∧
    resultsWait.cap.cal = some { CalRun.start 8 60000 with phase := .report } ∧
    resultsWait.cap.report = some ⟨.passed, 8, 60000, .const 0, true⟩ ∧ resultsWait.lif.waitList = .cap :: [] ∧
    resultsWait.lif.tx = some ⟨0x43#8, 0#8, []⟩ ∧ resultsWait.pins.linkHold = false ∧
    resultsWait.lif.replies = [] ∧ resultsWait.lif.resetPending = false ∧ resultsWait.lif.noticeDue = false ∧
    resultsWait.lif.reports = ⟨0x43#8, 0#8, []⟩ :: eightReports.tail := by
  refine ⟨?_, rfl, by decide⟩
  rintro s rfl
  exact ⟨quiet_of rfl rfl, by decide⟩

/-- The tables of a run are written, and the device is IDLE, once its CAL_DONE gets the room (R12, R173). -/
theorem test_results_wait_for_room : after .recordSent resultsWait (fun t =>
    (t.scn.op, t.cap.cal.isNone, t.cap.valid, t.lif.waitList, t.lif.reports.length)) =
    some (.idle, true, true, [], 8) := by decide

/-- The state after reset with a command in front is within the limits, and its step answers next. -/
theorem witness_StepsKeepTheLimits :
    WithinLimits (State.reset.setPending [.identify 1#8 []]) ∧
    ∃ t, step (State.reset.setPending [.identify 1#8 []]) = .next t :=
  ⟨⟨by decide, by decide, by decide, by decide, by decide, by decide, by decide, by constructor <;> decide⟩,
    _, rfl⟩

/-- A scan in progress with a line in the ring, two numbered frames, and the first and the last slot taken. -/
def ordered : State := (((scanning [] 5).setRng ⟨[⟨43, [], [], false⟩]⟩).setFrd { Frd.powerOn with
    table := [numbered 0 false, ⟨20, .default, .zero, some ⟨2, 0, 63, none, false, false, false, 0, 64, 20, true⟩, none⟩]
    nextNumber := 3 }).setDfd ⟨[], [region 0 .opened, region 63 .closing], 0⟩

/-- The same for the safety of capture. -/
theorem witness_StepsKeepCaptureSafe :
    CaptureSafe (ordered.setPending [.watchdogExpiry]) ∧
    ∃ t, step (ordered.setPending [.watchdogExpiry]) = .next t := by
  refine ⟨?_, _, rfl⟩
  constructor <;> decide

/-- The same for the order of the tables, with the limits and the safety of capture. -/
theorem witness_StepsKeepTheLimits_tables :
    WithinLimits (ordered.setPending [.watchdogExpiry]) ∧ TablesInOrder (ordered.setPending [.watchdogExpiry]) := by
  refine ⟨⟨by decide, by decide, by decide, by decide, by decide, by decide, by decide, by constructor <;> decide⟩, ?_⟩
  constructor <;> decide

/-! ## Points settled by the rules at once -/

/-- A rejected frame's FRAME_DONE enters at its close, before the line goes on, and the frame is freed (R54). -/
theorem test_rejected_frame_is_freed_at_its_close :
    (((inImage (numbered 0 true) 5).frdLine 30 (List.replicate 64 (px 50000))).frd.table,
      ((inImage (numbered 0 true) 5).frdLine 30 (List.replicate 64 (px 50000))).lif.reports.map (·.kind)) =
    ([], [0x42#8]) := by decide +kernel

/-- The probe that completes with the scan's last line: numbered, then closed by the scan's end (R46, R53). -/
theorem test_probe_and_scan_end_on_one_line :
    ((inImage (tentative 68) 0).frdLine 99 (List.replicate 64 (px 20000))).frd.table.map
      (fun f => (f.probed.map (·.number), f.closed)) = [(some 1, some ⟨99, .scanEnd, 99⟩)] := by decide +kernel

/-- A marker of no line is reached although the head waits for room (log 35). -/
theorem test_marker_behind_a_waiting_head : after (.mark 1#8 [2#8, 0#8]) reachedWaits (fun t =>
    (t.scn.markers.map (·.reached), t.scn.due.length)) = some ([true, true], 2) := by decide

/-- ABORT taken before the HOME edge that arrived with it: the carriage stands, IDLE, INVALID (R156, log 36). -/
theorem test_abort_before_the_home_edge : after (.abort 1#8 []) edgeThere (fun t =>
    (t.scn.op, t.trc.motion, t.trc.valid, lastReply t)) = some (.idle, .parked, false, some [0#8, 0#8]) := by decide

/-- A FAULT that waited is formed as it enters, with the position of then (R186, log 10). -/
theorem test_fault_is_formed_at_entry : after (.brakingStep false) (faultDue.setTrc { faultDue.trc with
    brakesLeft := 2 }) (fun t => (t.lif.reports.head?).map (·.payload)) =
    some (some [1#8, 4#8, 44#8, 0#8, 10#8, 0#8, 1#8]) := by decide

end Sys2Proof.Tests
end

/-! PROOF. The invariants of the device as a whole: what a row can come to, said once, and each invariant kept
by each of these (O58, O59, O60). -/

namespace Sys2Proof.Machine

open Sys2Proof

/-! ## What a row can come to -/

/-- What a row does to the device before the device settles and the arbiter chooses. -/
inductive Reaction (s : State) : State → Prop
  | holderLeaves : Reaction s s.holderLeaves
  | homeRises : Reaction s s.homeRises
  | homeFalls : Reaction s s.homeFalls
  | homeLimit : Reaction s s.homeLimit
  | endRises : Reaction s s.endRises
  | motorStep (b : Bool) (e : Nat) : Reaction s ((s.endFell b).intervalExpires e)
  | brakingStep (b : Bool) : Reaction s (s.endFell b).brakingExpires
  | holdExpires : Reaction s s.holdExpires
  | rampStep : Reaction s (s.setTrc s.trc.rampStepEnds)
  | lateLine : Reaction s s.lateLine
  | pixels (d : Bool) (px : List Pixel) : Reaction s (s.pixelsArrive d px)
  | finishRepair (e : Repairing) : Reaction s (s.finishRepair e)
  | warmupEnds : Reaction s s.warmupEnds
  | calTimerEnds : Reaction s s.calTimerEnds

/-- What a row comes to. -/
inductive RowEnd (s : State) : State → Prop
  | same : RowEnd s s
  | powerOn : RowEnd s (State.powerOn s.pins s.pending)
  | softReset : RowEnd s s.softReset
  | bytes (bs : List Byte) : RowEnd s (s.takeBytes bs)
  | linkError (e : LinkError) : RowEnd s (s.linkError e)
  | command (k t : Byte) (p : List Byte) : RowEnd s (s.commandRow k t p)
  | recordEnds : RowEnd s s.recordEnds
  | pins (x : Pins) : RowEnd s (s.setPins x)
  | released (x : Pins) : RowEnd s (s.setPins x).arbitrate
  | settled {u : State} : Reaction s u → RowEnd s u.finish
  | darkCapture : s.cap.cal.map (·.phase) = some .darkSettle → RowEnd s (s.setCap s.cap.beginDarkCapture)
  | transferEnds {x : AfeTransfer} (n : Option AfeByte) (d : Byte) : s.cap.afe = some x →
      RowEnd s (s.transferEnds x n d)

/-- A row that acts under a condition and else changes nothing. -/
theorem RowEnd.ite {s u : State} {c : Prop} [Decidable c] (h : c → RowEnd s u) :
    RowEnd s (if c then u else s) := by
  split
  · exact h ‹_›
  · exact .same

/-- Every row answers next, and with one of these. -/
theorem exec_rowEnd (i : Instr) (s : State) : ∃ t, exec i s = .next t ∧ RowEnd s t := by
  cases i with
  | powerOn | resetPin => exact ⟨_, rfl, .powerOn⟩
  | recordReceived bs => exact ⟨_, rfl, .bytes bs⟩
  | interByteTimeout => exact ⟨_, rfl, .ite fun _ => .linkError _⟩
  | softResetTakesEffect => exact ⟨_, rfl, .ite fun _ => .softReset⟩
  | identify tag p | status tag p | softReset tag p | abort tag p | setup tag p | profile tag p
  | formatRule tag p | scanStart tag p | mark tag p | speedCap tag p | lamp tag p | home tag p
  | move tag p | afeWrite tag p | afeRead tag p | calRun tag p | calLoad tag p | calRead tag p
  | causeEnable tag p | causeClear tag p => exact ⟨_, rfl, .command _ tag p⟩
  | unknownKind k tag p => exact ⟨_, rfl, .command k tag p⟩
  | recordSent => exact ⟨_, rfl, .recordEnds⟩
  | linkHoldActive | holderInserted => exact ⟨_, rfl, .pins _⟩
  | linkHoldInactive => exact ⟨_, rfl, .ite fun _ => .released _⟩
  | holderRemoved => exact ⟨_, rfl, .settled .holderLeaves⟩
  | homeEdge => exact ⟨_, rfl, .settled .homeRises⟩
  | homeReleased => exact ⟨_, rfl, .settled .homeFalls⟩
  | homeStepLimit => exact ⟨_, rfl, .settled .homeLimit⟩
  | endEdge => exact ⟨_, rfl, .settled .endRises⟩
  | motorStep b e => exact ⟨_, rfl, .settled (.motorStep b e)⟩
  | brakingStep b => exact ⟨_, rfl, .settled (.brakingStep b)⟩
  | holdTimerExpiry => exact ⟨_, rfl, .settled .holdExpires⟩
  | rampStepEnd => exact ⟨_, rfl, .settled .rampStep⟩
  | watchdogExpiry => exact ⟨_, rfl, .ite fun _ => .settled .lateLine⟩
  | lineComplete d px => exact ⟨_, rfl, .settled (.pixels d px)⟩
  | repairComplete =>
    refine ⟨_, rfl, ?_⟩
    split
    · exact .settled (.finishRepair _)
    · exact .same
  | warmupExpiry => exact ⟨_, rfl, .settled .warmupEnds⟩
  | darkSettleEnd => exact ⟨_, rfl, .ite .darkCapture⟩
  | calLineTimer => exact ⟨_, rfl, .settled .calTimerEnds⟩
  | calLineComplete px => exact ⟨_, rfl, .settled (.pixels false px)⟩
  | afeTransferComplete n d =>
    refine ⟨_, rfl, ?_⟩
    split
    · exact .transferEnds _ d ‹_›
    · exact .same

/-- A step idles, or ends a row that starts with the front command taken off the queue. -/
theorem step_rowEnd {s t : State} (h : step s = .next t) : t = s ∨ ∃ q, RowEnd (s.setPending q) t := by
  unfold step at h
  split at h
  · exact .inl (Host.Outcome.next.inj h).symm
  · rename_i i rest _
    obtain ⟨u, hu, hr⟩ := exec_rowEnd i (s.setPending rest)
    rw [hu] at h
    exact .inr ⟨rest, Host.Outcome.next.inj h ▸ hr⟩

/-! ## Safety of capture -/

theorem CaptureSafe.reaction {s u : State} (h : CaptureSafe s) (r : Reaction s u) : CaptureSafe u := by
  have fell (b : Bool) : CaptureSafe (s.endFell b) := h.of_view (s.view_endFell b)
  cases r with
  | holderLeaves => exact h.holderLeaves
  | homeRises => exact h.homeRises
  | homeFalls => exact h.homeFalls
  | homeLimit => exact h.homeLimit
  | endRises => exact h.endRises
  | motorStep b e => exact (fell b).intervalExpires e
  | brakingStep b => exact (fell b).brakingExpires
  | holdExpires => exact h.holdExpires
  | rampStep => exact h.rampStep
  | lateLine => exact h.lateLine
  | pixels d px => exact h.pixelsArrive d px
  | finishRepair e => exact h.imagePath (ImagePath.start.finishRepair e)
  | warmupEnds => exact h.warmupEnds
  | calTimerEnds => exact h.calTimerEnds

theorem CaptureSafe.rowEnd {s t : State} (h : CaptureSafe s) (r : RowEnd s t) : CaptureSafe t := by
  cases r with
  | same => exact h
  | powerOn => exact .powerOn _ _
  | softReset => exact s.safe_softReset
  | bytes bs => exact h.takeBytes bs
  | linkError e => exact h.linkError e
  | command k t p => exact h.commandRow k t p
  | recordEnds => exact h.recordEnds
  | pins x => exact h.setPins x
  | released x => exact (h.setPins x).arbitrate
  | settled r => exact (h.reaction r).finish
  | darkCapture hc => exact h.beginDarkCapture hc
  | transferEnds n d _ => exact h.transferEnds _ n d

/-- Settles O60: the row that a step runs ends in one of the ways of `RowEnd`, each of which keeps capture safe. -/
theorem stepsKeepCaptureSafe : Obligations.StepsKeepCaptureSafe := by
  intro s t h e
  obtain rfl | ⟨q, r⟩ := step_rowEnd e
  · exact h
  · exact (h.of_view (s.view_setPending q)).rowEnd r

/-! ## Limits -/

theorem WithinLimits.reaction {s u : State} (h : WithinLimits s) (r : Reaction s u) : WithinLimits u := by
  cases r with
  | holderLeaves => exact h.holderLeaves
  | homeRises => exact h.homeRises
  | homeFalls => exact h.homeFalls
  | homeLimit => exact h.homeLimit
  | endRises => exact h.endRises
  | motorStep b e => exact (h.endFell b).intervalExpires e
  | brakingStep b => exact (h.endFell b).brakingExpires
  | holdExpires => exact h.holdExpires
  | rampStep => exact h.setTrc _
  | lateLine => exact h.lateLine
  | pixels d px => exact h.pixelsArrive d px
  | finishRepair e => exact h.of_outer (s.outer_finishRepair e)
  | warmupEnds => exact h.warmupEnds
  | calTimerEnds => exact h.calTimerEnds

theorem WithinLimits.rowEnd {s t : State} (h : WithinLimits s) (r : RowEnd s t) : WithinLimits t := by
  cases r with
  | same => exact h
  | powerOn => exact .powerOn _ _
  | softReset => exact h.softReset
  | bytes bs => exact h.takeBytes bs
  | linkError e => exact h.linkError e
  | command k t p => exact h.commandRow k t p
  | recordEnds => exact h.recordEnds
  | pins x => exact h.setPins x
  | released x => exact (h.setPins x).arbitrate
  | settled r => exact (h.reaction r).finish
  | darkCapture _ => exact h.setCap h.tables rfl
  | transferEnds n d hx => exact h.transferEnds _ n d (by simp [hx])

/-! ## The tables of a scan -/

theorem Sound.reaction {s u : State} (h : Sound s) (hu : SetupInRange s.setup) (r : Reaction s u) : Sound u := by
  cases r with
  | holderLeaves => exact h.holderLeaves
  | homeRises => exact h.homeRises
  | homeFalls => exact h.homeFalls
  | homeLimit => exact h.homeLimit
  | endRises => exact h.endRises
  | motorStep b e => exact (h.endFell b).intervalExpires e
  | brakingStep b => exact (h.endFell b).brakingExpires
  | holdExpires => exact h.holdExpires
  | rampStep => exact h.rampStep
  | lateLine => exact h.lateLine
  | pixels d px => exact h.pixelsArrive hu d px
  | finishRepair e => exact h.finishRepair e
  | warmupEnds => exact h.warmupEnds
  | calTimerEnds => exact h.calTimerEnds

theorem Sound.rowEnd {s t : State} (h : Sound s) (hu : SetupInRange s.setup) (r : RowEnd s t) : Sound t := by
  cases r with
  | same => exact h
  | powerOn => exact State.sound_powerOn _ _
  | softReset => exact s.sound_softReset
  | bytes bs => exact h.takeBytes bs
  | linkError e => exact h.linkError e
  | command k t p => exact h.commandRow k t p
  | recordEnds => exact h.recordEnds
  | pins x => exact h.setPins x
  | released x => exact (h.setPins x).arbitrate
  | settled r => exact (h.reaction hu r).finish
  | darkCapture hc => exact h.beginDarkCapture hc
  | transferEnds n d _ => exact h.transferEnds _ n d

/-- Settles O59: both invariants row by row; the order of the tables rests on the safety of capture. -/
theorem stepsKeepTheLimits : Obligations.StepsKeepTheLimits := by
  constructor
  · intro s t h e
    obtain rfl | ⟨q, r⟩ := step_rowEnd e
    · exact h
    · exact (h.setPending q).rowEnd r
  · intro s t hl hc ho e
    obtain rfl | ⟨q, r⟩ := step_rowEnd e
    · exact ho
    · have sound : Sound (s.setPending q) := Sound.of_flags ⟨hc, ho⟩ rfl rfl
      exact (sound.rowEnd hl.setup r).order

/-- Settles O58: reset is a power-on, which meets each invariant. -/
theorem resetIsIdleAndSafe : Obligations.ResetIsIdleAndSafe :=
  ⟨rfl, rfl, rfl, rfl, rfl, rfl, rfl, rfl, rfl, rfl, rfl, .powerOn _ _, .powerOn _ _, State.order_powerOn _ _⟩

end Sys2Proof.Machine

/-! PROOF. The resets, and the commands that a ready link takes: SETUP, SCAN_START, LAMP, the Front-End Control
Port, CAL_RUN, CAL_LOAD and CAL_READ (O10, O11, O19, O25, O28, O31 to O35). -/

namespace Sys2Proof.Machine

open Sys2Proof

/-! ## Resets -/

theorem exec_softReset {c : Instr} {s : State} (hc : c = .softResetTakesEffect ∨ c = .recordSent)
    (hs : s.sendsResetReply = true) : exec c s = .next s.softReset := by
  obtain rfl | rfl := hc
  · exact congrArg Host.Outcome.next (if_pos hs)
  · refine congrArg Host.Outcome.next (?_ : s.recordEnds = _)
    unfold State.recordEnds
    cases htx : s.lif.tx with
    | none => simp [State.sendsResetReply, htx] at hs
    | some r => exact if_pos hs

/-- Settles O10: both rows make the reset take effect, whose blocks are those of the reset tables. -/
theorem softResetTakesEffectInEveryBlock : Obligations.SoftResetTakesEffectInEveryBlock := by
  intro c s hc hs
  refine ⟨s.softReset, exec_softReset hc hs, ?_⟩
  refine ⟨?cap, rfl, ?frd, rfl, rfl, ?coe, ?trc, rfl, rfl, rfl, rfl⟩
  all_goals repeat' constructor

/-- Settles O11: both rows are the power-on state at the levels of the pins. -/
theorem powerOnAndResetPinClearTheDevice : Obligations.PowerOnAndResetPinClearTheDevice := by
  intro c s hc
  refine ⟨State.powerOn s.pins s.pending, by obtain rfl | rfl := hc <;> rfl, ?_⟩
  refine ⟨?cap, rfl, ?frd, rfl, rfl, ?coe, ?trc, rfl, rfl, rfl, rfl⟩
  all_goals repeat' constructor

/-! ## A command at a ready link -/

/-- The state in which a record that arrives at a ready link is dispatched: it is in the slot and the framer
hunts (R167, R169). -/
def State.atDispatch (s : State) (r : Record) : State := s.setLif { s.lif with framer := .hunt, slot := some r }

section atDispatch

variable (s : State) (r : Record)

@[simp] theorem State.atDispatch_cap : (s.atDispatch r).cap = s.cap := rfl
@[simp] theorem State.atDispatch_trc : (s.atDispatch r).trc = s.trc := rfl
@[simp] theorem State.atDispatch_scn : (s.atDispatch r).scn = s.scn := rfl
@[simp] theorem State.atDispatch_pins : (s.atDispatch r).pins = s.pins := rfl
@[simp] theorem State.atDispatch_setup : (s.atDispatch r).setup = s.setup := rfl

end atDispatch

theorem kindOf_code (k : Kind) : kindOf k.code = some k := by cases k <;> rfl

/-- A command in a state that takes it, with its form in order, leaves the state of its answer and its reply on
the way out. -/
theorem Ready.taken {s u : State} (h : Ready s) {k : Kind} {tag : Byte} {p reply : List Byte}
    (hl : p.length ≤ Config.receiveLimit) (h1 : s.refusesNow k = false) (h2 : k.formOk p = true)
    (ha : (s.atDispatch ⟨k.code, tag, p⟩).act k p = ⟨u.atDispatch ⟨k.code, tag, p⟩, some reply⟩)
    (hu : u.lif.resetPending = false) :
    Replied u (s.commandRow k.code tag p) ⟨replyKind k.code, tag, reply⟩ := by
  rw [State.commandRow_fits s hl]
  exact State.recordArrives_replied h
    ((State.judgeRecord_taken (s := s.atDispatch ⟨k.code, tag, p⟩) (kindOf_code k) h1 h2).trans ha) hu

/-- A command that the operation state refuses is answered BUSY. -/
theorem Ready.busy {s : State} (h : Ready s) {k : Kind} {tag : Byte} {p : List Byte}
    (hl : p.length ≤ Config.receiveLimit) (h1 : s.refusesNow k = true) :
    Replied s (s.commandRow k.code tag p) ⟨replyKind k.code, tag, busyReply s.scn.op⟩ := by
  rw [State.commandRow_fits s hl]
  exact State.recordArrives_replied h (State.judgeRecord_busy (kindOf_code k) h1) h.noReset

theorem refusesNow_eq_false {s : State} {k : Kind} (h1 : k.takenIn s.scn.op = true)
    (h2 : k.heldByEnd = false ∨ s.scn.endWaits = false) : s.refusesNow k = false := by
  unfold State.refusesNow
  rw [h1]
  rcases h2 with h2 | h2 <;> rw [h2] <;> simp

/-! ## SETUP -/

theorem Setup.refusedField_none {u : Setup} (hn : 1 ≤ u.n ∧ u.n ≤ 60000)
    (hw : 64 ≤ u.w ∧ u.w ≤ 8192 ∧ u.w % 16 = 0) (hx : u.wl < u.wr ∧ u.wr ≤ u.w - 1 ∧ 64 ≤ u.wr - u.wl + 1)
    (hg : u.il + 8 ≤ u.gl) (ha : u.afeAddress ≤ 127) (hp : u.p0 + u.n - 1 ≤ 65535) :
    u.refusedField = none := by
  unfold Setup.refusedField
  rw [if_neg (by omega), if_neg (by omega), if_neg (by omega), if_neg (by omega), if_neg (by omega),
    if_neg (by simp only [Config.maxHalf]; omega)]

/-- Settles O19: the payload's fields pass the tests as clamped, and the tables keep their flag where W stays. -/
theorem setupReplacesTheSetup : Obligations.SetupReplacesTheSetup := by
  intro tag p s u hr ho hl f1 f2 f3 hu hn hw hx hg ha hp
  refine ⟨_, rfl, hr.taken (k := .setup) (by simp [hl, Config.receiveLimit])
    (refusesNow_eq_false (by simp [Kind.takenIn, ho]) (.inl rfl))
    (by simp [Kind.formOk, Kind.length, Kind.choicesOk, flagAt, hl, f1, f2, f3]) ?_ hr.noReset⟩
  have hc : (setupOf p).clamped = u := hu.symm
  simp only [State.act, State.actSetup, hc, Setup.refusedField_none hn hw hx hg ha hp]
  by_cases h : u.w = s.scn.setup.w
  · rw [if_pos (by exact h), decide_eq_true h, Bool.and_true]
    rfl
  · rw [if_neg (by exact h), decide_eq_false h, Bool.and_false]
    rfl

/-! ## SCAN_START -/

theorem Trc.resolved_started (t : Trc) (u : Setup) : (t.started u).resolved = t.cap := by
  unfold Trc.resolved Trc.started
  cases t.cap <;> rfl

/-- The carriage at SCAN_START once the lamp has been reported, if it is ON (R143, R147). -/
def Trc.runUp (t : Trc) (u : Setup) (lampOn : Bool) : Trc :=
  { t.started u with lampReady := lampOn, hold := lampOn && decide (t.cap ≠ .s0) }

theorem Cap.lamp_lampOn (c : Cap) : c.lampOn.lamp = .on ↔ c.lamp = .on := by
  unfold Cap.lampOn
  cases h : c.lamp <;> simp [h]

theorem State.startScan_form (s : State) : s.startScan =
    (((((((s.setCap (s.cap.started s.setup)).setFrd (s.frd.started s.setup)).setDfd ⟨[], [], 0⟩).setRpe
      ⟨[], none, 0, 0⟩).setCoe (s.coe.started s.setup)).setTrc (s.trc.runUp s.setup (decide (s.cap.lamp = .on)))).setScn
      { s.scn.started with op := .preparing }).setNtu { s.ntu with haltedCond := false } := by
  have hl : (s.cap.started s.setup).lamp = .on ↔ s.cap.lamp = .on := s.cap.lamp_lampOn
  unfold State.startScan
  simp only []
  rw [State.setOp_form _ (by decide)]
  by_cases h : s.cap.lamp = .on
  · rw [if_pos (by exact hl.mpr h), decide_eq_true h]
    unfold State.releaseRunUp Trc.runUp
    simp only [State.setNtu_trc, State.setScn_trc, State.setTrc_trc, Trc.resolved_started]
    by_cases hg : s.trc.cap = .s0
    · rw [if_pos hg]
      simp only [hg]
      rfl
    · rw [if_neg hg]
      simp only [ne_eq, hg, not_false_eq_true, decide_true, Bool.and_true]
      rfl
  · rw [if_neg (by exact fun hx => h (hl.mp hx)), decide_eq_false h]
    rfl

theorem State.startScan_atDispatch (s : State) (r : Record) :
    (s.atDispatch r).startScan = s.startScan.atDispatch r := by
  rw [State.startScan_form, State.startScan_form]
  rfl

theorem Cap.started_form (c : Cap) (u : Setup) : c.started u = { c with
    nextLine := 0
    remaining := u.n
    gateOpen := false
    lamp := if c.lamp = .off then .warming else c.lamp
    warmup := if c.lamp = .off then true else c.warmup } := by
  unfold Cap.started Cap.lampOn
  by_cases h : c.lamp = .off
  · rw [if_pos h, if_pos h, if_pos h]
  · rw [if_neg h, if_neg h, if_neg h]

theorem Coe.promote_active (c : Coe) : c.promote.active = c.pendingProfile.getD c.active := by
  unfold Coe.promote
  cases c.pendingProfile <;> rfl

theorem Coe.promote_pending (c : Coe) : c.promote.pendingProfile = none := by
  unfold Coe.promote
  cases h : c.pendingProfile <;> simp [h]

/-- Settles O25: the conditions hold, and the starting state is that of `State.startScan_form`. -/
theorem scanStartSetsEveryBlock : Obligations.ScanStartSetsEveryBlock := by
  intro tag s hr ho he hv hp hh
  refine ⟨_, s.startScan, rfl, hr.taken (k := .scanStart) (by simp)
    (refusesNow_eq_false (by simp [Kind.takenIn, ho]) (.inr he)) rfl ?_ ?_, ?_⟩
  · have hc (r : Record) : (s.atDispatch r).startCondition = none := by simp [State.startCondition, hv, hp, hh]
    simp only [State.act, State.actScanStart, hc, State.startScan_atDispatch]
    rfl
  · rw [State.startScan_form]
    exact hr.noReset
  · rw [State.startScan_form]
    refine ⟨s.cap.started_form _, rfl, rfl, rfl, rfl, ⟨s.coe.promote_active, s.coe.promote_pending, rfl, rfl, rfl,
      rfl, rfl, rfl, rfl, rfl, rfl, rfl, ?_⟩, ?_, rfl, rfl, rfl, rfl⟩
    · show (s.coe.previewDone && !s.scn.setup.preview) = _
      cases s.scn.setup.preview <;> simp
    · show s.trc.runUp s.scn.setup _ = _
      unfold Trc.runUp Trc.started
      rw [hp]

/-! ## LAMP -/

/-- LAMP in a state that takes it switches the lamp and replies with its state (R16). -/
theorem Ready.lamp {s : State} (h : Ready s) (tag : Byte) {b : Byte} {c : Cap} (hb : b.toNat ≤ 1)
    (ho : s.scn.op ∉ [OpState.calibrating, .preparing, .scanning])
    (hc : (if onAt [b] 0 then s.cap.lampOn else s.cap.lampOff) = c) :
    Replied (s.setCap c) (s.commandRow 0x10#8 tag [b]) ⟨0x90#8, tag, [0#8, c.lamp.code]⟩ := by
  simp only [List.mem_cons, List.not_mem_nil, or_false, not_or] at ho
  refine h.taken (k := .lamp) (by simp [Config.receiveLimit])
    (refusesNow_eq_false (by simp [Kind.takenIn, ho]) (.inl rfl))
    (by simp [Kind.formOk, Kind.length, Kind.choicesOk, flagAt, u8, hb]) ?_ h.noReset
  simp only [State.act, State.actLamp, State.atDispatch_cap, hc]
  rfl

/-- Settles O28: off, on from OFF, and on otherwise. -/
theorem lampSwitches : Obligations.LampSwitches := by
  intro tag b s hr ho
  refine ⟨?off, ?fromOff, ?stays⟩
  case off =>
    rintro rfl
    exact ⟨_, rfl, hr.lamp tag (by decide) ho rfl⟩
  case fromOff =>
    rintro rfl hl
    exact ⟨_, rfl, hr.lamp tag (by decide) ho (if_pos hl)⟩
  case stays =>
    rintro rfl hl
    refine ⟨_, rfl, ?_⟩
    have h := hr.lamp tag (b := 1#8) (by decide) ho (if_neg hl)
    cases hx : s.cap.lamp with
    | off => exact absurd hx hl
    | warming | on => rw [hx] at h; exact h

/-! ## The Front-End Control Port -/

/-- A command that starts a transfer keeps the slot, and no reply is added (R19). -/
theorem Ready.transfer {s : State} (h : Ready s) (hq : s.atRest) {k : Kind} {tag : Byte} {p : List Byte}
    {x : AfeTransfer} (hl : p.length ≤ Config.receiveLimit) (h1 : s.refusesNow k = false) (h2 : k.formOk p = true)
    (ha : (s.atDispatch ⟨k.code, tag, p⟩).act k p =
      ⟨(s.setCap { s.cap with afe := some x }).atDispatch ⟨k.code, tag, p⟩, none⟩) :
    s.commandRow k.code tag p = (s.setCap { s.cap with afe := some x }).atDispatch ⟨k.code, tag, p⟩ := by
  have hj : (s.atDispatch ⟨k.code, tag, p⟩).judgeRecord ⟨k.code, tag, p⟩ = _ :=
    (State.judgeRecord_taken (s := s.atDispatch ⟨k.code, tag, p⟩) (r := ⟨k.code, tag, p⟩) (kindOf_code k) h1
      h2).trans ha
  rw [State.commandRow_fits s hl, State.recordArrives_ready h, ← State.atDispatch, State.dispatch, hj]
  exact State.arbitrate_rest (State.atRest_of_resting hq rfl)

/-- Settles O31. -/
theorem transfersStart : Obligations.TransfersStart := by
  intro tag a b s hr hq ho
  have taken {k : Kind} (hk : k = .afeWrite ∨ k = .afeRead) : s.refusesNow k = false := by
    refine refusesNow_eq_false ?_ (.inl ?_)
    · rcases hk with rfl | rfl <;> rcases ho with ho | ho <;> rw [ho] <;> rfl
    · rcases hk with rfl | rfl <;> rfl
  have bytes (c : Byte) : byte c.toNat = c := by simp [byte]
  constructor
  · refine congrArg Host.Outcome.next
      (hr.transfer hq (k := .afeWrite) (by simp [Config.receiveLimit]) (taken (.inl rfl)) rfl ?_)
    simp [State.act, State.actAfeWrite, u8, bytes]
    rfl
  · refine congrArg Host.Outcome.next
      (hr.transfer hq (k := .afeRead) (by simp [Config.receiveLimit]) (taken (.inr rfl)) rfl ?_)
    simp [State.act, State.actAfeRead, u8, bytes]
    rfl

/-- The end of a transfer: the reply joins what leaves, the slot is free, and the arbiter moves nothing but
replies (R19, R169, R175). -/
theorem State.transferEnds_form {s u : State} {r : Record} {t : AfeTransfer} {n : Option AfeByte} {d : Byte}
    (hs : s.lif.slot = some r) (hp : u.lif.resetPending = false)
    (hu : (if n.isSome then (s.setCap { s.cap with afe := none }).raise .afeNack
      else s.setCap { s.cap with afe := none }) = u) :
    ∃ (l : List Record) (x : Option Record),
      s.transferEnds t n d = u.setLif { u.lif with slot := none, replies := l, tx := x } ∧
      x.toList ++ l = u.outgoing ++ [replyTo r (t.reply n d)] := by
  have hf : (u.pushReply (replyTo r (t.reply n d))).freeSlot =
      u.setLif { u.lif with slot := none, replies := u.lif.replies ++ [replyTo r (t.reply n d)] } := by
    unfold State.freeSlot
    rw [if_neg (by simpa [State.pushReply] using hp)]
    rfl
  have he : s.transferEnds t n d = ((u.pushReply (replyTo r (t.reply n d))).freeSlot).arbitrate := by
    unfold State.transferEnds
    rw [hs]
    simp only [hu]
  obtain ⟨l, x, e, ho⟩ := State.arbitrate_reply
    (s := (u.pushReply (replyTo r (t.reply n d))).freeSlot) (by rw [hf]; rfl) (by rw [hf]; simp)
  refine ⟨l, x, by rw [he, e, hf]; rfl, ?_⟩
  rw [ho, hf]
  simp [State.outgoing]

/-- Settles O32: with a transfer pending, its end is `State.transferEnds_form`. -/
theorem transfersEndWithTheReply : Obligations.TransfersEndWithTheReply := by
  intro lost d s
  refine ⟨fun h => ?_, fun x r hx hs hp hw => ?_⟩
  · show Host.Outcome.next (match s.cap.afe with | some t => _ | none => s) = _
    rw [h]
  have hn : x.failed lost = lost := by
    unfold AfeTransfer.failed
    refine if_neg fun hb => ?_
    simp only [Bool.and_eq_true, Bool.not_eq_true', decide_eq_true_eq] at hb
    exact hw hb.1 hb.2
  have he : exec (.afeTransferComplete lost d) s = .next (s.transferEnds x lost d) := by
    show Host.Outcome.next (match s.cap.afe with | some t => _ | none => s) = _
    rw [hx]
    exact congrArg (fun n => Host.Outcome.next (s.transferEnds x n d)) hn
  obtain ⟨u, hu⟩ : ∃ u, u = (if lost = none then s.setCap { s.cap with afe := none }
      else (s.setCap { s.cap with afe := none }).raise .afeNack) := ⟨_, rfl⟩
  have hraise : u.lif = { s.lif with noticeDue := u.lif.noticeDue } := by
    rw [hu]
    split
    · rfl
    · rw [State.raise_form]; rfl
  obtain ⟨l, q, e, ho⟩ := State.transferEnds_form (t := x) (n := lost) (d := d) hs
    (by rw [hraise]; exact hp) (by rw [hu]; cases lost <;> rfl)
  refine ⟨_, u, he, hu, by rw [e]; rfl, ?_⟩
  rw [e]
  show q.toList ++ l = _
  have hout : u.outgoing = s.outgoing := by
    unfold State.outgoing
    rw [hraise]
  rw [ho, hout]
  congr 2
  rcases lost with _ | b
  · rfl
  · cases b <;> rfl

/-! ## CAL_RUN -/

/-- A move taken while the carriage brakes waits for the stop event (R130; log 11). -/
theorem State.takeMove_braking {s : State} (h : s.trc.braking = true) (n : Nat) : s.takeMove n =
    ((s.setScn { s.scn with op := .positioning }).setNtu { s.ntu with haltedCond := false }).setTrc
      { s.trc with queued := some (.move n) } := by
  unfold State.takeMove
  simp only [State.setOp_form s (op := .positioning) (by decide)]
  rw [if_pos (by exact h)]
  rfl

/-- A move to another position begins (R133). -/
theorem State.takeMove_moving {s : State} (h : s.trc.braking = false) {n : Nat} (hn : s.trc.position.toNat ≠ n) :
    s.takeMove n =
    ((s.setScn { s.scn with op := .positioning }).setNtu { s.ntu with haltedCond := false }).setTrc
      { s.trc with
        motion := .moving
        target := some n
        dir := if s.trc.position.toNat < n then .forward else .backward
        interval := s.scn.setup.lp } := by
  have hd : dirTo s.trc.position.toNat n = if s.trc.position.toNat < n then .forward else .backward := by
    unfold dirTo
    by_cases hl : s.trc.position.toNat < n
    · rw [if_pos hl, if_pos hl.le]
    · rw [if_neg hl, if_neg (by omega)]
  unfold State.takeMove State.beginMove
  simp only [State.setOp_form s (op := .positioning) (by decide)]
  rw [if_neg (by simp [h]), if_neg (by exact hn), ← hd]
  rfl

/-- A calibration run's move to the position where the carriage stands arrives at once, and the dark settle
begins (R9, R133). -/
theorem State.takeMove_there {s : State} (h : s.trc.braking = false) {n : Nat} (hn : s.trc.position.toNat = n)
    (hc : s.cap.cal.isSome = true) : s.takeMove n =
    (((s.setScn { s.scn with op := .calibrating }).setNtu { s.ntu with haltedCond := false }).setCap
      s.cap.beginDarkSettle).setTrc { s.trc with motion := .parked, target := none, interval := 0 } := by
  unfold State.takeMove State.beginMove State.moveArrived State.moveComplete
  simp only [State.setOp_form s (op := .positioning) (by decide)]
  rw [if_neg (by simp [h]), if_pos (by exact hn), if_pos (by rfl), if_pos (by exact hc),
    State.setOp_form _ (by decide)]
  rfl

/-- The move of a calibration run leaves the record that is being dispatched alone. -/
theorem State.takeMove_atDispatch {s : State} (hc : s.cap.cal.isSome = true) (r : Record) (n : Nat) :
    (s.atDispatch r).takeMove n = (s.takeMove n).atDispatch r := by
  cases hb : s.trc.braking with
  | true => rw [State.takeMove_braking hb, State.takeMove_braking (by exact hb)]; rfl
  | false =>
    by_cases hn : s.trc.position.toNat = n
    · rw [State.takeMove_there hb hn hc, State.takeMove_there (by exact hb) (by exact hn) (by exact hc)]; rfl
    · rw [State.takeMove_moving hb hn, State.takeMove_moving (by exact hb) (by exact hn)]; rfl

/-- A taken CAL_RUN begins its run with its move (R8). -/
theorem Ready.calRun {s : State} (h : Ready s) (tag : Byte) {p : List Byte} (hl : p.length = 5)
    (ho : s.scn.op = .idle) (he : s.scn.endWaits = false) {u : State} {reply : List Byte}
    (ha : (s.atDispatch ⟨0x18#8, tag, p⟩).actCalRun p = ⟨u.atDispatch ⟨0x18#8, tag, p⟩, some reply⟩)
    (hu : u.lif.resetPending = false) : Replied u (s.commandRow 0x18#8 tag p) ⟨0x98#8, tag, reply⟩ :=
  h.taken (k := .calRun) (by simp [hl, Config.receiveLimit])
    (refusesNow_eq_false (by simp [Kind.takenIn, ho]) (.inr he))
    (by simp [Kind.formOk, Kind.length, Kind.choicesOk, hl]) ha hu

/-- A CAL_RUN that is refused for nothing (R8). -/
theorem State.actCalRun_taken {s : State} {p : List Byte} (hl : u8 p 2 ∈ [8, 16, 32]) (hv : s.trc.valid = true) :
    s.actCalRun p = ((s.setCap { s.cap with cal := some (CalRun.start (u8 p 2) (max 4096 (u16 p 3))) }).takeMove
      (u16 p 0)).answer (okReply ([byte (u8 p 2)] ++ le16 (max 4096 (u16 p 3)) ++ [OpState.positioning.code])) := by
  simp only [List.mem_cons, List.not_mem_nil, or_false] at hl
  unfold State.actCalRun
  simp only []
  rw [if_neg (by omega), if_neg (by simp [hv])]

/-- Settles O33: the two refusals, then the three beginnings of the move. -/
theorem calRunBegins : Obligations.CalRunBegins := by
  intro tag p s hr hl ho he
  refine ⟨fun hx => ?_, fun hx hv => ?_, fun hx hv => ?_⟩
  · refine ⟨_, rfl, hr.calRun tag hl ho he ?_ hr.noReset⟩
    simp only [List.mem_cons, List.not_mem_nil, or_false, not_or] at hx
    exact if_pos hx
  · refine ⟨_, rfl, hr.calRun tag hl ho he ?_ hr.noReset⟩
    simp only [List.mem_cons, List.not_mem_nil, or_false] at hx
    unfold State.actCalRun
    simp only []
    rw [if_neg (by omega), if_pos (by simp [hv])]
    rfl
  · refine ⟨_, (s.setCap { s.cap with
      cal := some (CalRun.start (u8 p 2) (max 4096 (u16 p 3))) }).takeMove (u16 p 0), rfl,
      hr.calRun tag hl ho he ?_ ?_, fun hb => ?_, fun hb hn => ?_, fun hb hn => ?_⟩
    · rw [State.actCalRun_taken (s := s.atDispatch _) hx hv, State.atDispatch_cap]
      exact congrArg (State.answer · _) (State.takeMove_atDispatch (s := s.setCap _) rfl _ _)
    · exact (congrArg Front.resetPending (State.front_takeMove _ _)).trans hr.noReset
    · rw [State.takeMove_braking (by exact hb)]; rfl
    · rw [State.takeMove_moving (by exact hb) (by exact hn)]; rfl
    · rw [State.takeMove_there (by exact hb) (by exact hn) rfl]; rfl

/-! ## CAL_LOAD and CAL_READ -/

theorem getElem?_loadValues (p : List Byte) (i : Nat) :
    (loadValues p)[i]? = if i < u16 p 5 then some (half (u16 p (7 + 2 * i))) else none := by
  unfold loadValues
  rw [List.getElem?_map]
  split
  · rw [List.getElem?_range ‹_›]; rfl
  · rw [List.getElem?_eq_none (by simpa using Nat.not_lt.mp ‹_›)]; rfl

theorem channelOf_setChannel {α : Type} (x : PerChannel α) (v : α) {a b : Nat} (ha : a ≤ 3) (hb : b ≤ 3) :
    channelOf (setChannel x v a) b = if b = a then v else channelOf x b := by
  interval_cases a <;> interval_cases b <;> rfl

/-- A segment written changes the table that it names and no other (R14). -/
theorem Cap.table_loadTable (c : Cap) {ch tb ch' tb' : Nat} (first : Nat) (vs : List Half) (h1 : ch ≤ 3)
    (h2 : tb ≤ 1) (h3 : ch' ≤ 3) (h4 : tb' ≤ 1) : (c.loadTable ch tb first vs).table ch' tb' =
      if ch' = ch ∧ tb' = tb then Table.writeFrom (c.table ch tb) first vs else c.table ch' tb' := by
  unfold Cap.loadTable Cap.table
  interval_cases tb <;> interval_cases tb' <;> simp [channelOf_setChannel _ _ h1 h3]

theorem Cap.wf_table {c : Cap} (h : c.tablesWf = true) (ch tb : Nat) : Table.wf (c.table ch tb) = true := by
  unfold Cap.tablesWf at h
  simp only [Bool.and_eq_true] at h
  obtain ⟨⟨⟨⟨⟨⟨⟨d0, d1⟩, d2⟩, d3⟩, g0⟩, g1⟩, g2⟩, g3⟩ := h
  unfold Cap.table channelOf
  split <;> split <;> assumption

/-- CAL_LOAD in IDLE with its form in order comes to what `State.actCalLoad` says (R14). -/
theorem Ready.calLoad {s : State} (h : Ready s) (tag : Byte) {p : List Byte} (ho : s.scn.op = .idle)
    (hf : p.length ≤ 1024) (hl : p.length = 7 + 2 * u16 p 5) (h0 : u8 p 0 ≤ 3) (h1 : u8 p 1 ≤ 1) (h2 : u8 p 2 ≤ 1)
    {u : State} {reply : List Byte}
    (ha : (s.atDispatch ⟨0x19#8, tag, p⟩).actCalLoad p = ⟨u.atDispatch ⟨0x19#8, tag, p⟩, some reply⟩)
    (hu : u.lif.resetPending = false) : Replied u (s.commandRow 0x19#8 tag p) ⟨0x99#8, tag, reply⟩ :=
  h.taken (k := .calLoad) hf (refusesNow_eq_false (by simp [Kind.takenIn, ho]) (.inl rfl))
    (by simp [Kind.formOk, Kind.length, Kind.choicesOk, flagAt, ← hl, h0, h1, h2]) ha hu

/-- Settles O34: what the loaded table reads is what `Table.read_writeFrom` says of the values of the payload. -/
theorem calLoadWritesItsSegment : Obligations.CalLoadWritesItsSegment := by
  intro tag p s hr ho hf hl h0 h1 h2
  refine ⟨fun hx => ⟨_, rfl, hr.calLoad tag ho hf hl h0 h1 h2 (if_pos hx) hr.noReset⟩, fun hc hw ht => ?_⟩
  refine ⟨_, s.cap.loadTable (u8 p 0) (u8 p 1) (u16 p 3) (loadValues p), rfl,
    hr.calLoad tag ho hf hl h0 h1 h2 ?_ hr.noReset, fun ch tb x hch htb => ?_⟩
  · have flag : flagByte (onAt p 2) = byte (u8 p 2) := by
      unfold onAt
      generalize u8 p 2 = n at h2
      interval_cases n <;> rfl
    have kept (c : Cap) (a b n : Nat) (vs : List Half) : { c.loadTable a b n vs with valid := onAt p 2 } =
        { c with
          dark := (c.loadTable a b n vs).dark, gain := (c.loadTable a b n vs).gain, valid := onAt p 2 } := by
      unfold Cap.loadTable
      split <;> rfl
    unfold State.actCalLoad
    simp only []
    rw [if_neg (by simp only [State.atDispatch_setup, State.setup_eq] at *; omega), kept, flag]
    rfl
  · rw [Cap.table_loadTable s.cap _ _ h0 h1 hch htb]
    by_cases hx : ch = u8 p 0 ∧ tb = u8 p 1
    · obtain ⟨rfl, rfl⟩ := hx
      rw [if_pos ⟨rfl, rfl⟩, Table.read_writeFrom (Cap.wf_table ht _ _), getElem?_loadValues]
      by_cases hlo : u16 p 3 ≤ x
      · by_cases hhi : x < u16 p 3 + u16 p 5
        · rw [if_pos hlo, if_pos (by omega), if_pos ⟨rfl, rfl, hlo, hhi⟩]; rfl
        · rw [if_pos hlo, if_neg (by omega), if_neg (by omega)]; rfl
      · rw [if_neg hlo, if_neg (by omega)]
    · rw [if_neg hx, if_neg (by omega)]

theorem Table.readFrom_eq_map (t : Table) (first n : Nat) :
    Table.readFrom t first n = (List.range n).map fun i => Table.read t (first + i) := by
  refine List.ext_getElem? fun i => ?_
  rw [Table.getElem_readFrom, List.getElem?_map]
  split
  · rw [List.getElem?_range ‹_›]; rfl
  · rw [List.getElem?_eq_none (by simpa using Nat.not_lt.mp ‹_›)]; rfl

/-- Settles O35: BUSY, refused, or the values of `Table.readFrom`. -/
theorem calReadReportsTheTable : Obligations.CalReadReportsTheTable := by
  intro tag p s hr hl h0 h1
  have fits : p.length ≤ Config.receiveLimit := by simp [hl, Config.receiveLimit]
  have form : Kind.formOk .calRead p = true := by
    simp [Kind.formOk, Kind.length, Kind.choicesOk, hl, h0, h1]
  have taken (ho : s.scn.op = .idle) : s.refusesNow .calRead = false :=
    refusesNow_eq_false (by simp [Kind.takenIn, ho]) (.inl rfl)
  refine ⟨fun ho => ⟨_, rfl, hr.busy (k := .calRead) fits ?_⟩, fun ho hx => ⟨_, rfl, ?_⟩,
    fun ho hc hn hw => ⟨_, rfl, ?_⟩⟩
  · simp [State.refusesNow, Kind.takenIn, ho]
  · exact hr.taken (k := .calRead) fits (taken ho) form (if_pos hx) hr.noReset
  · refine hr.taken (k := .calRead) fits (taken ho) form (u := s) ?_ hr.noReset
    simp only [State.act, State.actCalRead]
    rw [if_neg (by simp only [State.atDispatch_setup, State.setup_eq] at *; omega), Table.readFrom_eq_map,
      List.flatMap_map]
    rfl

end Sys2Proof.Machine

/-! PROOF. The arithmetic of the Capture Unit: flat-field correction, and the gains of a channel (O50, O51). -/

namespace Sys2Proof.Machine

open Sys2Proof

/-! ## Flat-field correction -/

/-- A corrected line holds the corrected pixel of each column (R6). -/
theorem Cap.getElem?_correctLine (c : Cap) (raw : List Pixel) (x i : Nat) :
    (c.correctLine x raw)[i]? = raw[i]?.map (c.correctPixel (x + i)) := by
  induction raw generalizing x i with
  | nil => rfl
  | cons p ps ih =>
    cases i with
    | zero => rfl
    | succ i =>
      rw [Cap.correctLine, List.getElem?_cons_succ, List.getElem?_cons_succ, ih]
      congr 2
      omega

theorem Cap.length_correctLine (c : Cap) (raw : List Pixel) (x : Nat) :
    (c.correctLine x raw).length = raw.length := by
  induction raw generalizing x with
  | nil => rfl
  | cons p ps ih => simp [Cap.correctLine, ih]

/-- A corrected sample never exceeds 16 bits (R6). -/
theorem toNat_correctSample (v d g : Half) :
    (correctSample v d g).toNat = min 65535 (((v.toNat - d.toNat) * g.toNat + 2048) / 4096) := by
  unfold correctSample half Config.maxHalf
  rw [BitVec.toNat_ofNat, Nat.mod_eq_of_lt]
  omega

/-- Settles O50. -/
theorem flatFieldCorrectsEachSample : Obligations.FlatFieldCorrectsEachSample := by
  intro c raw
  refine ⟨c.length_correctLine raw 0, fun x p hp => ⟨c.correctPixel x p, ?_, ?_⟩⟩
  · rw [c.getElem?_correctLine, hp, Nat.zero_add]
    rfl
  · intro v d g w hm
    simp only [List.mem_cons, Prod.mk.injEq, List.not_mem_nil, or_false] at hm
    obtain ⟨rfl, rfl, rfl, rfl⟩ | ⟨rfl, rfl, rfl, rfl⟩ | ⟨rfl, rfl, rfl, rfl⟩ | ⟨rfl, rfl, rfl, rfl⟩ := hm
    all_goals exact toNat_correctSample _ _ _

/-! ## The gains of a channel -/

/-- Weak columns with no strong one before them take the gain from the left, or the one for none. -/
theorem fillGains_of_weak {o : Nat} : ∀ {own : List (Option Nat)} {left : Option Nat} {x : Nat},
    (∀ z ≤ x, own[z]? = some none) → (fillGains left o own)[x]? = some (left.getD o)
  | [], _, _, hz => by simpa using hz 0 (by omega)
  | a :: rest, left, x, hz => by
    obtain rfl : a = none := by simpa using hz 0 (by omega)
    cases x with
    | zero => rfl
    | succ x => exact fillGains_of_weak (own := rest) fun z h => hz (z + 1) (by omega)

/-- A strong column gives its gain to itself and to the weak columns that follow it. -/
theorem fillGains_of_strong {o g : Nat} : ∀ {own : List (Option Nat)} {left : Option Nat} {y x : Nat},
    own[y]? = some (some g) → y ≤ x → (∀ z, y < z → z ≤ x → own[z]? = some none) →
    (fillGains left o own)[x]? = some g
  | [], _, _, _, hy, _, _ => by simp at hy
  | a :: rest, left, y + 1, x, hy, hx, hz => by
    obtain ⟨x, rfl⟩ : ∃ k, x = k + 1 := ⟨x - 1, by omega⟩
    have step (l : Option Nat) : (fillGains l o rest)[x]? = some g :=
      fillGains_of_strong (y := y) hy (by omega) fun z h1 h2 => hz (z + 1) (by omega) (by omega)
    cases a <;> exact step _
  | a :: rest, left, 0, 0, hy, _, _ => by
    obtain rfl : a = some g := by simpa using hy
    rfl
  | a :: rest, left, 0, x + 1, hy, _, hz => by
    obtain rfl : a = some g := by simpa using hy
    exact fillGains_of_weak fun z h => hz (z + 1) (by omega) (by omega)

theorem firstStrong_eq {g : Nat} : ∀ {own : List (Option Nat)} {y : Nat}, own[y]? = some (some g) →
    (∀ z < y, own[z]? = some none) → firstStrong own = some g
  | [], _, hy, _ => by simp at hy
  | a :: rest, 0, hy, _ => by
    obtain rfl : a = some g := by simpa using hy
    rfl
  | a :: rest, y + 1, hy, hz => by
    obtain rfl : a = none := by simpa using hz 0 (by omega)
    exact firstStrong_eq (own := rest) hy fun z h => hz (z + 1) (by omega)

theorem firstStrong_none {own : List (Option Nat)} (h : ∀ a ∈ own, a = none) : firstStrong own = none := by
  induction own with
  | nil => rfl
  | cons a rest ih =>
    obtain rfl := h a (by simp)
    exact ih fun b hb => h b (by simp [hb])

/-- The own gain of a column: none where its span is weak (R11). -/
theorem getElem?_ownGains (target : Nat) (span : List Nat) {z : Nat} (hz : z < span.length) :
    (span.map (ownGain target))[z]? = some (if 1024 ≤ span.getD z 0 then
      some (min 65535 (target * 4096 / span.getD z 0)) else none) := by
  rw [List.getElem?_map, List.getD_eq_getElem?_getD, List.getElem?_eq_getElem hz]
  rfl

/-- Settles O51: a strong column to the left or the column itself, the first strong one to the right, or none. -/
theorem gainsFollowTheStrongColumns : Obligations.GainsFollowTheStrongColumns := by
  intro target span x hx
  have strong {z : Nat} (hz : z < span.length) (h : 1024 ≤ span.getD z 0) :
      (span.map (ownGain target))[z]? = some (some (min 65535 (target * 4096 / span.getD z 0))) := by
    rw [getElem?_ownGains target span hz, if_pos h]
  have weak {z : Nat} (hz : z < span.length) (h : span.getD z 0 < 1024) :
      (span.map (ownGain target))[z]? = some none := by
    rw [getElem?_ownGains target span hz, if_neg (by omega)]
  refine ⟨fun y hy h1 h => ?_, fun h => ?_⟩
  · rcases h with rfl | ⟨hl, h⟩ | ⟨hr, h⟩
    · exact fillGains_of_strong (strong hy h1) le_rfl fun z h1 h2 => by omega
    · exact fillGains_of_strong (strong hy h1) hl.le fun z h2 h3 => weak (by omega) (h z h2 h3)
    · have hf : firstStrong (span.map (ownGain target)) = _ :=
        firstStrong_eq (strong hy h1) fun z hz => weak (by omega) (h z hz)
      unfold channelGains
      simp only [hf]
      exact fillGains_of_weak fun z hz => weak (by omega) (h z (by omega))
  · have hf : firstStrong (span.map (ownGain target)) = none := by
      refine firstStrong_none fun a ha => ?_
      obtain ⟨z, hz, rfl⟩ := List.mem_iff_getElem.mp ha
      rw [List.length_map] at hz
      have := weak hz (h z hz)
      rw [List.getElem?_eq_getElem (by simpa using hz)] at this
      exact Option.some.inj this
    unfold channelGains
    simp only [hf]
    exact fillGains_of_weak fun z hz => weak (by omega) (h z (by omega))

end Sys2Proof.Machine

/-! PROOF. The steps of a carriage that does not brake: a MOVE, a HOME, a calibration run's move, and scan
transport (O43, O44). -/

namespace Sys2Proof.Machine

open Sys2Proof

/-! ## A step that is issued -/

/-- The next step of the carriage is issued and takes it to the position `next` (R128, R131). -/
def State.StepsTo (s : State) (next : Half) : Prop :=
  s.trc.dir = .forward ∧ s.pins.endStop = false ∧ next = s.trc.position + 1 ∧
    (s.trc.valid = true → s.trc.position.toNat < 65535) ∨
  s.trc.dir = .backward ∧ next = s.trc.position - 1 ∧ (s.trc.valid = true → 0 < s.trc.position.toNat)

section steps

variable {s : State} {next : Half} {e : Nat}

theorem State.StepsTo.stepped_eq (h : s.StepsTo next) : stepped s.trc.position s.trc.dir = next := by
  obtain ⟨hd, -, rfl, -⟩ | ⟨hd, rfl, -⟩ := h <;> rw [hd] <;> rfl

theorem State.StepsTo.noEnd (h : s.StepsTo next) : ¬(s.trc.dir = .forward ∧ s.pins.endStop = true) := by
  rintro ⟨h1, h2⟩
  obtain ⟨-, h3, -⟩ | ⟨h3, -⟩ := h
  · rw [h3] at h2; cases h2
  · rw [h3] at h1; cases h1

theorem State.StepsTo.canStep (h : s.StepsTo next) : s.trc.canStep s.trc.dir = true := by
  unfold Trc.canStep
  obtain ⟨hd, -, -, hp⟩ | ⟨hd, -, hp⟩ := h
  all_goals
    rw [hd]
    cases hv : s.trc.valid with
    | false => rfl
    | true => exact decide_eq_true (hp hv)

/-- A step interval that expires short of the resume position, with no END in the way, is a step (R128). -/
theorem State.StepsTo.intervalExpires (h : s.StepsTo next) (hm : s.trc.motion ≠ .parked)
    (hb : s.trc.braking = false) (hr : ¬(s.trc.motion = .approaching ∧ s.trc.position.toNat = s.trc.resumePos)) :
    s.intervalExpires e = s.motionStep.startInterval e := by
  unfold State.intervalExpires
  rw [if_neg (by simp [hm, hb]), if_neg hr, if_neg h.noEnd, if_neg (by simp [h.canStep])]

/-- With the gate SHUT it counts into the position and does nothing else (R1, R128). -/
theorem State.StepsTo.stepOnce (h : s.StepsTo next) (hg : s.cap.gateOpen = false) :
    s.stepOnce = s.setTrc { s.trc with position := next } := by
  rw [State.stepOnce_shut s hg, h.stepped_eq]

/-! ## The step of each motion -/

theorem State.motionStep_homing (hm : s.trc.motion = .homing) : s.motionStep = s.homingStep := by
  unfold State.motionStep
  rw [hm]

theorem State.motionStep_moving (hm : s.trc.motion = .moving) : s.motionStep =
    if s.stepOnce.trc.atTarget then s.stepOnce.moveArrived else s.stepOnce := by
  unfold State.motionStep
  rw [hm]

theorem State.motionStep_backtracking (hm : s.trc.motion = .backtracking) : s.motionStep =
    if s.stepOnce.trc.atTarget then s.stepOnce.beginApproach else s.stepOnce := by
  unfold State.motionStep
  rw [hm]

/-- The step of an approach, to the position `p` (R142). -/
theorem State.motionStep_approaching {p : Half} (hm : s.trc.motion = .approaching)
    (hp : stepped s.trc.position s.trc.dir = p) : s.motionStep =
    if p.toNat = s.trc.resumePos then (s.setTrc { s.trc with position := p }).captureResume
    else (s.setTrc { s.trc with position := p }).lineStep := by
  unfold State.motionStep
  rw [hm, ← hp]
  rfl

theorem State.motionStep_cruising (hm : s.trc.motion = .cruising) : s.motionStep = s.stepOnce := by
  unfold State.motionStep
  rw [hm]

/-- A carriage still moving at LP starts its next interval at LP (R129). -/
theorem State.startInterval_ungraded (hb : s.trc.braking = false) (hm : s.trc.motion ≠ .parked)
    (hg : s.trc.graded = false) :
    s.startInterval e = s.setTrc { s.trc with interval := s.scn.setup.lp } := by
  unfold State.startInterval Trc.nextInterval
  rw [if_neg (by simp [hb, hm]), hg]
  rfl

/-- A carriage still moving starts its next interval (R129, R138). -/
theorem State.startInterval_moving (hb : s.trc.braking = false) (hm : s.trc.motion ≠ .parked) :
    s.startInterval e = s.setTrc { s.trc with interval := s.trc.nextInterval s.scn.setup.lp e } := by
  unfold State.startInterval
  rw [if_neg (by simp [hb, hm])]
  rfl

theorem State.startInterval_parked (hm : s.trc.motion = .parked) : s.startInterval e = s := by
  unfold State.startInterval
  rw [if_pos (by simp [hm])]

/-- A carriage that turns from APPROACHING to CRUISING goes on at the same grade and ramp (R129, R138). -/
theorem Trc.nextInterval_cruising {t : Trc} (hm : t.motion = .approaching) (p : Half) (lp : Nat) :
    ({ t with position := p, motion := .cruising, target := none } : Trc).nextInterval lp e =
      t.nextInterval lp e := by
  have hg : t.graded = true := by simp [Trc.graded, hm]
  unfold Trc.nextInterval
  rw [hg]
  rfl

end steps

/-! ## MOVE, HOME and the move of a calibration run -/

/-- The completion of a MOVE (R133). -/
theorem State.moveComplete_move {s : State} (ho : s.scn.op = .positioning) (hc : s.cap.cal = none) :
    s.moveComplete = (s.setScn { s.scn with op := .idle }).setNtu { s.ntu with haltedCond := false } := by
  unfold State.moveComplete
  rw [if_pos ho, if_neg (by simp [hc]), State.setOp_form _ (by decide)]

/-- The completion of a calibration run's move: the dark settle begins (R9, R133). -/
theorem State.moveComplete_cal {s : State} (ho : s.scn.op = .positioning) {run : CalRun} (hc : s.cap.cal = some run) :
    s.moveComplete = ((s.setScn { s.scn with op := .calibrating }).setNtu { s.ntu with
      haltedCond := false }).setCap { s.cap with
        lamp := .off, warmup := false, cal := some { run with phase := .darkSettle } } := by
  have hd : s.cap.beginDarkSettle = { s.cap with
      lamp := .off, warmup := false, cal := some { run with phase := .darkSettle } } := by
    unfold Cap.beginDarkSettle
    rw [hc]
    rfl
  unfold State.moveComplete
  rw [if_pos ho, if_pos (by simp [hc]), State.setOp_form _ (by decide), hd]
  rfl

/-- With END active a forward step is not issued, and the row is what the END edge is (R131). -/
theorem State.intervalExpires_end {s : State} {e : Nat} (hm : s.trc.motion ≠ .parked) (hb : s.trc.braking = false)
    (hd : s.trc.dir = .forward) (he : s.pins.endStop = true)
    (hr : s.trc.motion = .approaching → s.trc.position.toNat ≠ s.trc.resumePos) :
    s.intervalExpires e = s.endRises := by
  have hp : s.setPins { s.pins with endStop := true } = s := by
    rw [← he]
    rfl
  unfold State.intervalExpires State.endRises
  rw [if_neg (by simp [hm, hb]), if_neg fun h => hr h.1 h.2, if_pos ⟨hd, he⟩, hp,
    if_neg (by simp [Trc.standing, hm])]

/-- A step of a carriage that stays in MOVING (R129, R133). -/
theorem State.StepsTo.moving {s : State} {next : Half} {e g : Nat} (h : s.StepsTo next)
    (hg : s.cap.gateOpen = false) (hb : s.trc.braking = false) (hm : s.trc.motion = .moving)
    (ht : s.trc.target = some g) (hn : next.toNat ≠ g) :
    s.intervalExpires e = s.setTrc { s.trc with position := next, interval := s.scn.setup.lp } := by
  rw [h.intervalExpires (by simp [hm]) hb (by simp [hm])]
  rw [State.motionStep_moving hm, h.stepOnce hg, if_neg (by simpa [Trc.atTarget, ht] using hn.symm),
    State.startInterval_ungraded (by exact hb) (by simp [hm]) (by simp [Trc.graded, hm])]
  rfl

/-- The step that arrives at the target of a move (R133). -/
theorem State.StepsTo.arrives {s : State} {next : Half} {e : Nat} (h : s.StepsTo next)
    (hg : s.cap.gateOpen = false) (hb : s.trc.braking = false) (hm : s.trc.motion = .moving)
    (ht : s.trc.target = some next.toNat) {u : State}
    (hu : (s.setTrc { s.trc with position := next, motion := .parked, target := none, interval := 0 }).moveComplete = u)
    (hp : u.trc.motion = .parked) : s.intervalExpires e = u := by
  rw [h.intervalExpires (by simp [hm]) hb (by simp [hm])]
  rw [State.motionStep_moving hm, h.stepOnce hg, if_pos (by simp [Trc.atTarget, ht])]
  exact (congrArg (State.startInterval · e) hu).trans (State.startInterval_parked hp)

/-- A step of a HOME move below the limit is counted (R132). -/
theorem State.StepsTo.homing {s : State} {next : Half} {e n : Nat} {phase : HomingPhase} (h : s.StepsTo next)
    (hg : s.cap.gateOpen = false) (hb : s.trc.braking = false) (hm : s.trc.motion = .homing)
    (hh : s.trc.homing = some ⟨phase, n⟩) (hn : n + 1 < 65535) :
    s.intervalExpires e = s.setTrc { s.trc with
      position := next, homing := some ⟨phase, n + 1⟩, interval := s.scn.setup.lp } := by
  rw [h.intervalExpires (by simp [hm]) hb (by simp [hm])]
  rw [State.motionStep_homing hm]
  unfold State.homingStep
  simp only [h.stepOnce hg, State.setTrc_trc, hh]
  rw [if_neg (by unfold Config.homingLimit; omega),
    State.startInterval_ungraded (by exact hb) (by simp [hm]) (by simp [Trc.graded, hm])]
  rfl

/-- Settles O43: END released, END in the way, and the steps of the three moves. -/
theorem motorStepMovesTheCarriage : Obligations.MotorStepMovesTheCarriage := by
  intro elapsed next s
  refine ⟨rfl, fun hm hb hd he hr => ?_, fun hq ho hg hb hstep => ⟨?_, ?_, ?_⟩⟩
  · exact congrArg (fun u : State => Host.Outcome.next u.finish) (State.intervalExpires_end hm hb hd he hr)
  all_goals
    have h : s.StepsTo next := hstep
    have row {u : State} (hu : s.intervalExpires elapsed = u) (hf : u.finish = u) :
        exec (.motorStep false elapsed) s = .next u :=
      congrArg Host.Outcome.next ((congrArg State.finish hu).trans hf)
  · intro g hm ht hn
    exact row (h.moving hg hb hm ht hn) (State.finish_of_quiet hq rfl rfl (by simp [ho, OpState.plain]))
  · rintro _ hm ht rfl
    refine ⟨fun hc => row (h.arrives hg hb hm ht ?_ ?_) ?_, fun run hc => row (h.arrives hg hb hm ht ?_ ?_) ?_⟩
    · exact State.moveComplete_move (s := s.setTrc _) ho hc
    · rfl
    · exact State.finish_of_quiet hq rfl rfl rfl
    · exact State.moveComplete_cal (s := s.setTrc { s.trc with
        position := next, motion := .parked, target := none, interval := 0 }) ho hc
    · rfl
    · exact State.finish_of_quiet hq rfl rfl rfl
  · intro phase n hm hh hn
    exact row (h.homing hg hb hm hh hn) (State.finish_of_quiet hq rfl rfl (by simp [ho, OpState.plain]))

/-! ## Scan transport -/

section transport

variable {s : State} {next : Half} {e : Nat}

/-- A backtracking step short of its target (R141). -/
theorem State.StepsTo.backtracking (h : s.StepsTo next) (hg : s.cap.gateOpen = false) (hb : s.trc.braking = false)
    (hm : s.trc.motion = .backtracking) {g : Nat} (ht : s.trc.target = some g) (hn : next.toNat ≠ g) :
    s.intervalExpires e = s.setTrc { s.trc with position := next, interval := s.scn.setup.lp } := by
  rw [h.intervalExpires (by simp [hm]) hb (by simp [hm])]
  rw [State.motionStep_backtracking hm, h.stepOnce hg, if_neg (by simpa [Trc.atTarget, ht] using hn.symm),
    State.startInterval_ungraded (by exact hb) (by simp [hm]) (by simp [Trc.graded, hm])]
  rfl

/-- The backtracking step that reaches its target: the approach begins (R141, R142). -/
theorem State.StepsTo.backtracked (h : s.StepsTo next) (hg : s.cap.gateOpen = false) (hb : s.trc.braking = false)
    (hm : s.trc.motion = .backtracking) (ht : s.trc.target = some next.toNat) :
    s.intervalExpires e = s.setTrc { s.trc with
      position := next
      motion := .approaching
      target := some s.trc.resumePos
      current := s.trc.resolved
      ramp := none
      hold := false
      dir := .forward
      interval := s.trc.resolved.period s.scn.setup.lp } := by
  rw [h.intervalExpires (by simp [hm]) hb (by simp [hm])]
  rw [State.motionStep_backtracking hm, h.stepOnce hg, if_pos (by simp [Trc.atTarget, ht]),
    State.startInterval_moving (by exact hb) (by simp [State.beginApproach])]
  rfl

/-- An approaching step short of the resume position (R142). -/
theorem State.StepsTo.approaching (h : s.StepsTo next) (hg : s.cap.gateOpen = false) (hb : s.trc.braking = false)
    (hm : s.trc.motion = .approaching) (hr : s.trc.position.toNat ≠ s.trc.resumePos)
    (hn : next.toNat ≠ s.trc.resumePos) :
    s.intervalExpires e = s.setTrc { s.trc with
      position := next, interval := s.trc.nextInterval s.scn.setup.lp e } := by
  rw [h.intervalExpires (by simp [hm]) hb (by simp [hr])]
  have hl : (s.setTrc { s.trc with position := next }).lineStep = s.setTrc { s.trc with position := next } :=
    if_neg (by simp [hg])
  rw [State.motionStep_approaching hm h.stepped_eq, if_neg hn, hl,
    State.startInterval_moving (by exact hb) (by simp [hm])]
  rfl

/-- With the gate OPEN and no line in flight, a line-step starts the next line (R1). -/
theorem State.lineStep_starts (hg : s.cap.gateOpen = true) (hf : s.cap.inFlight = none) :
    s.lineStep = s.setCap { s.cap with
      inFlight := some ⟨s.cap.nextLine, []⟩, nextLine := s.cap.nextLine + 1, watchdog := true } := by
  unfold State.lineStep
  rw [if_pos hg, if_neg (by simp [hf])]
  rfl

/-- Entering SCANNING with no demand at S0 from the ring or the Frame Table: HALTED does not hold (R145, R151). -/
theorem State.setOp_scanning (h1 : s.trc.ring ≠ .s0) (h2 : s.trc.table ≠ .s0) : s.setOp .scanning =
    (s.setScn { s.scn with op := .scanning }).setNtu { s.ntu with haltedCond := false } := by
  unfold State.setOp State.evalHalted State.haltedNow
  simp [h1, h2]

/-- The line-step that reaches the resume position: the gate opens, the resume line starts, and the carriage is
CRUISING; a resume after a halt is a re-seek, and PREPARING becomes SCANNING (R142, R151, R152). -/
theorem State.captureResume_form (ho : s.scn.op = .preparing ∨ s.scn.op = .scanning) (hf : s.cap.inFlight = none)
    (h1 : s.trc.ring ≠ .s0) (h2 : s.trc.table ≠ .s0) : s.captureResume =
    (((s.setTrc { s.trc with motion := .cruising, target := none }).setCap { s.cap with
      gateOpen := true
      inFlight := some ⟨s.cap.nextLine, []⟩
      nextLine := s.cap.nextLine + 1
      watchdog := true }).setScn { s.scn with
        op := .scanning
        reseeks := if 0 < s.trc.resumeLine then min 65535 (s.scn.reseeks + 1) else s.scn.reseeks }).setNtu {
          s.ntu with haltedCond := if s.scn.op = .preparing then false else s.ntu.haltedCond } := by
  have opens (c : Scn) (n : Ntu) : ((((s.setTrc { s.trc with motion := .cruising, target := none }).setCap {
      s.cap with gateOpen := true }).setScn c).setNtu n).lineStep = _ := State.lineStep_starts rfl hf
  unfold State.captureResume
  simp only []
  rcases ho with ho | ho
  · by_cases hr : 0 < s.trc.resumeLine
    · rw [if_pos hr, if_pos hr, if_pos ho, if_pos (by exact ho), State.setOp_scanning (by exact h1) (by exact h2)]
      exact opens _ _
    · rw [if_neg hr, if_neg hr, if_pos ho, if_pos (by exact ho), State.setOp_scanning (by exact h1) (by exact h2)]
      exact opens _ _
  · have hp : s.scn.op ≠ .preparing := by simp [ho]
    have stays (n : Nat) : { s.scn with op := .scanning, reseeks := n } = { s.scn with reseeks := n } := by
      rw [← ho]
    by_cases hr : 0 < s.trc.resumeLine
    · rw [if_pos hr, if_pos hr, if_neg hp, if_neg (by exact hp), stays]
      exact opens { s.scn with reseeks := min 65535 (s.scn.reseeks + 1) } s.ntu
    · rw [if_neg hr, if_neg hr, if_neg hp, if_neg (by exact hp), stays]
      exact opens s.scn s.ntu

/-- The step interval in which the approach ends, with its last step or on the resume position at once, is the
resume from the position `next` (R142). -/
theorem State.intervalExpires_resumes (hb : s.trc.braking = false) (hm : s.trc.motion = .approaching)
    (h : s.trc.position.toNat = s.trc.resumePos ∧ next = s.trc.position ∨
      s.StepsTo next ∧ s.trc.position.toNat ≠ s.trc.resumePos ∧ next.toNat = s.trc.resumePos) :
    s.intervalExpires e = (s.setTrc { s.trc with position := next }).captureResume.startInterval e := by
  obtain ⟨hp, rfl⟩ | ⟨h, hr, hn⟩ := h
  · unfold State.intervalExpires
    rw [if_neg (by simp [hm, hb]), if_pos ⟨hm, hp⟩]
    rfl
  · rw [h.intervalExpires (by simp [hm]) hb (by simp [hr])]
    rw [State.motionStep_approaching hm h.stepped_eq, if_pos hn]

end transport

/-- Settles O44: backtrack, approach, resume, and the line-step that starts a line. -/
theorem motorStepStartsLines : Obligations.MotorStepStartsLines := by
  intro elapsed next s hq hb hf
  have row {u : State} (hu : s.intervalExpires elapsed = u) (hx : u.finish = u) :
      exec (.motorStep false elapsed) s = .next u :=
    congrArg Host.Outcome.next ((congrArg State.finish hu).trans hx)
  have plain (ho : s.scn.op = .preparing ∨ s.scn.op = .scanning) : s.scn.op.plain = true := by
    rcases ho with ho | ho <;> rw [ho] <;> rfl
  have succ (h : s.trc.position.toNat < 65535) : (s.trc.position + 1).toNat = s.trc.position.toNat + 1 := by
    bv_omega
  refine ⟨fun hm ho hg hd => ?_, fun hd hm ho => ⟨fun hr he hp hg => ?_, fun hn h1 h2 => ?_⟩,
    fun hd he hp hm hg ho => ?_⟩
  · have h : s.StepsTo next := by
      obtain ⟨h1, h2, h3, h4⟩ | ⟨h1, h2, h3⟩ := hd
      · exact .inl ⟨h1, h2, h4, fun _ => h3⟩
      · exact .inr ⟨h1, h3, fun _ => h2⟩
    exact ⟨fun g ht hn => row (h.backtracking hg hb hm ht hn) (State.finish_of_quiet hq rfl rfl (plain ho)),
      fun ht => row (h.backtracked hg hb hm ht) (State.finish_of_quiet hq rfl rfl (plain ho))⟩
  · have h : s.StepsTo (s.trc.position + 1) := .inl ⟨hd, he, rfl, fun _ => hp⟩
    have hs := succ hp
    exact row (h.approaching hg hb hm (by omega) (by omega)) (State.finish_of_quiet hq rfl rfl (plain ho))
  · have arrives : s.trc.position.toNat = s.trc.resumePos ∧ next = s.trc.position ∨
        s.StepsTo next ∧ s.trc.position.toNat ≠ s.trc.resumePos ∧ next.toNat = s.trc.resumePos := by
      obtain h | ⟨h3, rfl, h4, h5⟩ := hn
      · exact .inl h
      · have hs := succ h5
        exact .inr ⟨.inl ⟨hd, h4, rfl, fun _ => h5⟩, by omega, by omega⟩
    have hi := State.intervalExpires_resumes (e := elapsed) hb hm arrives
    rw [State.captureResume_form (by exact ho) (by exact hf) (by exact h1) (by exact h2),
      State.startInterval_moving (by exact hb) (by simp)] at hi
    refine ⟨_, row hi (State.finish_of_quiet hq rfl rfl rfl), rfl, ?_, rfl, rfl, rfl, rfl, rfl, rfl, rfl, rfl, rfl⟩
    exact congrArg (fun n => { s.trc with position := next, motion := .cruising, target := none, interval := n })
      (Trc.nextInterval_cruising hm next s.scn.setup.lp)
  · have h : s.StepsTo (s.trc.position + 1) := .inl ⟨hd, he, rfl, fun _ => hp⟩
    refine row ?_ (State.finish_of_quiet hq rfl rfl (by exact plain (.inr ho)))
    rw [h.intervalExpires (by simp [hm]) hb (by simp [hm]), State.motionStep_cruising hm]
    unfold State.stepOnce
    rw [h.stepped_eq, State.lineStep_starts (by exact hg) (by exact hf),
      State.startInterval_moving (by exact hb) (by simp [hm])]
    rfl

end Sys2Proof.Machine

/-! PROOF. Calibration runs: the lamp's warm-up, the timers and lines of a run, and the writing of its results
(O56, O57). -/

namespace Sys2Proof.Machine

open Sys2Proof

/-! ## Pixels of a calibration line -/

section lines

variable {s : State} {f : Flight} {px : List Pixel} {run : CalRun}

/-- The pixels that fill the line in flight complete it (R2). -/
theorem Cap.takePixels_full {c : Cap} {w : Nat} (hf : c.inFlight = some f) (hl : w ≤ f.received.length + px.length) :
    c.takePixels w px = ({ c with inFlight := none, watchdog := false },
      some ⟨f.number, (f.received ++ px).take w⟩) := by
  unfold Cap.takePixels
  simp only [hf]
  rw [if_pos (by rw [List.length_take, List.length_append]; omega)]

/-- The Capture Unit once the line in flight has ended (R2). -/
def Cap.landed (c : Cap) : Cap := { c with inFlight := none, watchdog := false }

/-- The line that the pixels complete in CALIBRATING is a calibration line (R9). -/
theorem State.pixelsArrive_cal (ho : s.scn.op = .calibrating) (hf : s.cap.inFlight = some f)
    (hl : (f.received ++ px).length = s.scn.setup.w) (d : Bool) :
    s.pixelsArrive d px = (s.setCap s.cap.landed).calLine (f.received ++ px) := by
  unfold State.pixelsArrive
  simp only [Cap.takePixels_full hf (w := s.setup.w) (by rw [← List.length_append]; exact hl.ge)]
  rw [if_neg (by simp [ho]), if_pos (by exact ho), List.take_of_length_le (by exact hl.le)]
  rfl

/-- A dark line is added to the dark sums, and the last one ends the dark capture (R9). -/
theorem State.calLine_dark (hc : s.cap.cal = some run) (hp : run.phase = .darkCapture) (raw : List Pixel)
    {run1 : CalRun} (h1 : { run with darkSums := PerChannel.zip addSums run.darkSums (channelLists raw) } = run1) :
    s.calLine raw = s.setCap (if run.lines ≤ s.cap.calCount + 1 then
      ({ s.cap with calCount := s.cap.calCount + 1 } : Cap).darkDone run1
      else { s.cap with calCount := s.cap.calCount + 1, cal := some run1 }) := by
  subst h1
  unfold State.calLine
  simp only [hc, hp]
  split <;> rfl

/-- A white line is added to the white sums, and the last one ends the white capture (R10). -/
theorem State.calLine_white (hc : s.cap.cal = some run) (hp : run.phase = .whiteCapture) (raw : List Pixel)
    {run1 : CalRun} (h1 : { run with whiteSums := PerChannel.zip addSums run.whiteSums (channelLists raw) } = run1) :
    s.calLine raw = s.setCap (if run.lines ≤ s.cap.calCount + 1 then
      ({ s.cap with calCount := s.cap.calCount + 1 } : Cap).whiteDone s.setup.w run1
      else { s.cap with calCount := s.cap.calCount + 1, cal := some run1 }) := by
  subst h1
  unfold State.calLine
  simp only [hc, hp]
  split <;> rfl

/-- The last dark line with the lamp OFF: the averages are taken and the lamp is switched on (R9, R10). -/
theorem Cap.darkDone_off {c : Cap} (hl : c.lamp = .off) (run : CalRun) : c.darkDone run = { c with
    calTimer := false
    lamp := .warming
    warmup := true
    cal := some { run with phase := .warmUp, darkAvg := run.darkSums.map (List.map (average run.lines)) } } := by
  unfold Cap.darkDone Cap.beginWarmUp
  simp only []
  rw [if_neg (by simp [hl])]
  exact if_pos hl

end lines

/-! ## Timers -/

/-- The warm-up's end in PREPARING releases the run-up: the hold begins if the resolved grade is above S0
(R143, R151). -/
theorem State.warmupEnds_preparing {s : State} (hw : s.cap.warmup = true) (ho : s.scn.op = .preparing) :
    s.warmupEnds = (s.setCap { s.cap with lamp := .on, warmup := false }).setTrc { s.trc with
      lampReady := true, hold := s.trc.hold || decide (s.trc.resolved ≠ .s0) } := by
  unfold State.warmupEnds State.releaseRunUp
  rw [if_pos hw]
  simp only []
  rw [if_pos (by exact ho)]
  by_cases hr : s.trc.resolved = .s0
  · rw [if_pos (by exact hr), decide_eq_false (by simpa using hr), Bool.or_false]
    rfl
  · rw [if_neg (by exact hr), decide_eq_true hr, Bool.or_true]
    rfl

/-- The warm-up's end elsewhere: the lamp is ON, and a run in its warm-up begins the white capture (R10, R16). -/
theorem State.warmupEnds_on {s : State} (hw : s.cap.warmup = true) (ho : s.scn.op ≠ .preparing) :
    s.warmupEnds = s.setCap (if s.cap.cal.map (·.phase) = some .warmUp then
      ({ s.cap with lamp := .on, warmup := false } : Cap).beginWhiteCapture
      else { s.cap with lamp := .on, warmup := false }) := by
  unfold State.warmupEnds
  rw [if_pos hw]
  simp only []
  rw [if_neg (by exact ho)]
  split <;> rfl

theorem State.reactive_setCap (s : State) {c : Cap} (h : c.report.isSome = s.cap.report.isSome) :
    (s.setCap c).reactive = s.reactive := congrArg (fun b => { s.reactive with report := b }) h

/-- Settles O56: each timer and each line of a run changes the Capture Unit only, which leaves the device quiet. -/
theorem calibrationRunAdvances : Obligations.CalibrationRunAdvances := by
  intro s hq
  have row {i : Instr} {t u : State} (hi : exec i s = .next t.finish) (ht : t = u) (hu : u.finish = u) :
      exec i s = .next u := by rw [hi, ht, hu]
  have still (c : Cap) (hp : s.scn.op.plain = true) (hr : c.report = s.cap.report) :
      (s.setCap c).finish = s.setCap c :=
    State.finish_of_quiet hq (State.reactive_setCap s (by rw [hr])) rfl hp
  refine ⟨fun hw => ?_, fun hw hc hp ho => ?_, fun hw ho => ?_, fun run ho hc => ?_⟩
  · exact row rfl (if_neg (by simp [hw])) (State.finish_quiet hq)
  · exact row rfl ((State.warmupEnds_on hw ho).trans (by rw [if_neg (by simp [hc])])) (still _ hp rfl)
  · exact row rfl (State.warmupEnds_preparing hw ho) (State.finish_of_quiet hq rfl rfl (by simp [ho, OpState.plain]))
  have hp : s.scn.op.plain = true := by rw [ho]; rfl
  refine ⟨fun hw hph => ?_, fun hph => ?_, fun ht hf => ?_, fun f px hf hph hn hl => ?_,
    fun f px sums hf hph hlamp hn hl hs => ?_, fun f px hf hph hn hl => ?_⟩
  · refine row rfl ((State.warmupEnds_on hw (by simp [ho])).trans ?_) (still _ hp rfl)
    rw [if_pos (by simp [hc, hph])]
    unfold Cap.beginWhiteCapture
    rw [hc]
    rfl
  · refine congrArg Host.Outcome.next ((if_pos (by simp [hc, hph])).trans ?_)
    unfold Cap.beginDarkCapture
    rw [hc]
    rfl
  · refine row rfl ?_ (still _ hp rfl)
    unfold State.calTimerEnds
    rw [if_pos ht, if_neg (by simp [hf])]
    rfl
  · refine row rfl ?_ (still _ hp rfl)
    rw [State.pixelsArrive_cal ho hf hl, State.calLine_dark (by exact hc) hph _ rfl,
      if_neg (by simp only [State.setCap_cap, Cap.landed]; omega)]
    rfl
  · refine row rfl ?_ (still _ hp rfl)
    rw [State.pixelsArrive_cal ho hf hl, State.calLine_dark (by exact hc) hph _ rfl,
      if_pos (by simp only [State.setCap_cap, Cap.landed]; omega), Cap.darkDone_off (by exact hlamp), hs]
    rfl
  · refine row rfl ?_ (still _ hp rfl)
    rw [State.pixelsArrive_cal ho hf hl, State.calLine_white (by exact hc) hph _ rfl,
      if_neg (by simp only [State.setCap_cap, Cap.landed]; omega)]
    rfl

/-! ## Results -/

/-- What it takes for no producer to offer a report (R173). -/
theorem State.offering_none_iff {s : State} :
    s.offering = none ↔ ∀ p, s.hasReport p = true → p ∈ s.lif.waitList := by
  unfold State.offering
  rw [List.find?_eq_none]
  constructor
  · intro h p hp
    have := h p (by cases p <;> simp [producers])
    simpa [hp] using this
  · intro h p _ hb
    simp only [Bool.and_eq_true, Bool.not_eq_true'] at hb
    exact absurd (h p hb.1) (by simpa using hb.2)

/-- From a settled state, a report that CAP has due while the queue gives no room stands behind those that wait
(R173). -/
theorem State.settle_calWaits {s t : State} (hs : s.settleStep = none) (hc : t.coe = s.coe) (hf : t.frd = s.frd)
    (hr : t.rng = s.rng) (hd : t.dfd = s.dfd) (hm : t.scn = s.scn) (hp : t.scn.op.plain = true)
    (hw : t.lif.waitList = s.lif.waitList) (hn : .cap ∉ s.lif.waitList) (hq : t.cap.report.isSome = true)
    (hfull : t.lif.reports.length = 8 ∨ s.lif.waitList ≠ []) :
    t.settle = t.setLif { t.lif with waitList := s.lif.waitList ++ [.cap] } := by
  obtain ⟨h1, h2, -, h4, -⟩ := State.settleStep_none_iff.mp hs
  have quiet (x : Lif) : (t.setLif x).coeAdvance = none ∧ (t.setLif x).testMarker = none ∧
      (t.setLif x).drainCheck = none ∧ (t.setLif x).stoppingEnds = false :=
    ⟨State.coeAdvance_none hc hf hr hd (congrArg Scn.setup hm) h1,
      State.testMarker_none (congrArg Scn.markers hm) (congrArg Scn.firstHeld hm) h2,
      State.plain_settles (s := t.setLif x) hp⟩
  have others {p : Producer} (hne : p ≠ .cap) : t.hasReport p = s.hasReport p := by
    cases p with
    | cap => exact absurd rfl hne
    | frd => simp [State.hasReport, hf]
    | coe => simp [State.hasReport, hc]
    | scn => simp [State.hasReport, hm]
  have hcap : t.offering = some .cap := by
    have hno : t.lif.waitList.contains .cap = false := by simpa [hw] using hn
    simp only [State.offering, producers, List.find?_cons, State.hasReport, hq, hno, Bool.not_false, Bool.and_true]
  have hjoin : t.offer .cap = t.setLif { t.lif with waitList := s.lif.waitList ++ [.cap] } := by
    unfold State.offer State.offerBy State.joinWaitList
    rw [if_neg, if_neg (by simpa [hw] using hn), hw]
    rintro ⟨a, b⟩
    rw [hw] at b
    simp only [Config.reportCapacity] at a
    rcases hfull with h | h
    · omega
    · exact h b
  have hstep : t.settleStep = some (t.offer .cap) := by
    obtain ⟨a, b, c, -⟩ : t.coeAdvance = none ∧ t.testMarker = none ∧ t.drainCheck = none ∧ _ := quiet t.lif
    unfold State.settleStep
    rw [a, b, c, hcap]
  refine State.settle_one (hjoin ▸ hstep) (State.settleStep_none_iff.mpr ?_)
  obtain ⟨a, b, c, d⟩ := quiet { t.lif with waitList := s.lif.waitList ++ [.cap] }
  refine ⟨a, b, c, State.offering_none_iff.mpr fun p hr => ?_, d⟩
  by_cases hne : p = .cap
  · simp [hne]
  · have := State.offering_none_iff.mp h4 p ((others hne).symm.trans hr)
    exact List.mem_append_left _ this

/-- From a settled state, a report that CAP has due at the end of a run enters at once where the queue gives room,
and that is all (R12, R173). -/
theorem State.settle_calPlaced {s : State} {c : Cap} {run : CalRun} {r : CalReport} (hs : s.settleStep = none)
    (hp : s.scn.op.plain = true) (h0 : s.cap.report = none) (ho : s.reportsOpen = true) (hc : c.cal = some run)
    (hr : c.report = some r) (hv : r.outcome = .passed ∨ r.outcome = .failed) :
    (s.setCap c).settle = (s.setCap c).placeCal := by
  obtain ⟨h1, h2, -, -⟩ := State.settleStep_none_iff.mp hs
  have hstep : (s.setCap c).settleStep = some (s.setCap c).placeCal :=
    State.settleStep_cal (State.coeAdvance_none (s := s) rfl rfl rfl rfl rfl h1)
      (State.testMarker_none (s := s) rfl rfl h2)
      (State.plain_settles (s := s.setCap c) hp).1 (by simp [hr]) ho
  refine State.settle_one hstep ?_
  rw [State.placeCal_written _ (by exact hc) (by exact hr) hv]
  have h : (none : Option CalReport).isSome = s.cap.report.isSome := by rw [h0]
  exact State.settled_of_reactive hs (congrArg (fun b => { s.reactive with report := b }) h) rfl

/-- The CAL_DONE of a run that has reached its Report phase (R199). -/
theorem CalReport.record_of_verdict {r : CalReport} (h : r.outcome = .passed ∨ r.outcome = .failed) :
    r.record = ⟨0x44#8, 0#8, [if r.outcome = .failed then 1#8 else 0#8, byte r.lines] ++ le16 r.target ++
      le16 r.weak.r ++ le16 r.weak.g ++ le16 r.weak.b ++ le16 r.weak.ir ++ [flagByte r.valid]⟩ := by
  unfold CalReport.record
  rcases h with h | h <;> rw [h] <;> rfl

/-- The last white line: the run is in its Report phase with its CAL_DONE due (R10 to R12). -/
theorem State.pixelsArrive_lastWhite {s : State} {run done : CalRun} {f : Flight} {px : List Pixel}
    (ho : s.scn.op = .calibrating) (hc : s.cap.cal = some run) (hp : run.phase = .whiteCapture)
    (hf : s.cap.inFlight = some f) (hl : (f.received ++ px).length = s.scn.setup.w)
    (hn : s.cap.calCount + 1 = run.lines)
    (hd : done = CalRun.withGains { run with
      phase := .report
      whiteSums := PerChannel.zip addSums run.whiteSums (channelLists (f.received ++ px))
      whiteAvg := (PerChannel.zip addSums run.whiteSums (channelLists (f.received ++ px))).map
        (List.map (average run.lines)) }) (d : Bool) :
    s.pixelsArrive d px = s.setCap { s.cap with
      inFlight := none
      watchdog := false
      calCount := s.cap.calCount + 1
      calTimer := false
      cal := some done
      report := some ⟨if calFailed s.scn.setup.w done.weak then .failed else .passed, run.lines, run.target,
        done.weak, !calFailed s.scn.setup.w done.weak⟩ } := by
  rw [State.pixelsArrive_cal ho hf hl, State.calLine_white (by exact hc) hp _ rfl,
    if_pos (by simp only [State.setCap_cap, Cap.landed]; omega), hd]
  rfl

/-- A record that ends while LINK_HOLD is inactive, with no reply, no reset and no NOTICE due: the head of the
report queue leaves, and its room goes to the wait list (R173, R175). -/
theorem State.recordEnds_report {s : State} {x r : Record} {rest : List Record} (htx : s.lif.tx = some x)
    (hh : s.pins.linkHold = false) (hre : s.lif.replies = []) (hrp : s.lif.resetPending = false)
    (hnd : s.lif.noticeDue = false) (hr : s.lif.reports = r :: rest) :
    s.recordEnds = (s.setLif { s.lif with tx := some r, reports := rest }).giveRoom.settle := by
  unfold State.recordEnds
  simp only [htx]
  rw [if_neg (by simp [State.sendsResetReply, hrp])]
  unfold State.arbitrate
  rw [if_neg (by simp [hh])]
  simp only [State.setLif_lif, hre]
  rw [if_neg (by simp [hrp])]
  unfold State.chooseUnsolicited State.chooseData
  rw [if_neg (by simp [hnd])]
  simp only [State.setLif_lif, hr]
  rfl

/-- The room that goes to CAP at the head of the wait list: its CAL_DONE is placed, and it holds no more (R12,
R173). -/
theorem State.giveRoom_cal {s : State} {run : CalRun} {r : CalReport} {waiting : List Producer}
    (hc : s.cap.cal = some run) (hr : s.cap.report = some r) (ho : r.outcome = .passed ∨ r.outcome = .failed)
    (hw : s.lif.waitList = .cap :: waiting) :
    s.giveRoom = (s.setLif { s.lif with waitList := waiting }).placeCal := by
  have hplaced := State.placeCal_written (s.setLif { s.lif with waitList := waiting }) hc hr ho
  unfold State.giveRoom
  simp only [hw]
  refine if_neg ?_
  show ¬((s.setLif { s.lif with waitList := waiting }).placeCal.cap.report.isSome = true)
  rw [hplaced]
  exact Bool.false_ne_true

/-- A settled device stays so when CAP's report has been placed from the head of the wait list and the run is
over (R173). -/
theorem State.settled_of_placed {s t : State} {waiting : List Producer} (hs : s.settleStep = none)
    (hc : t.coe = s.coe) (hf : t.frd = s.frd) (hr : t.rng = s.rng) (hd : t.dfd = s.dfd) (hu : t.setup = s.setup)
    (hm : t.scn.markers = s.scn.markers) (hh : t.scn.firstHeld = s.scn.firstHeld) (hdue : t.scn.due = s.scn.due)
    (hp : t.scn.op.plain = true) (hq : t.cap.report = none) (hw : s.lif.waitList = .cap :: waiting)
    (hw' : t.lif.waitList = waiting) : t.settleStep = none := by
  obtain ⟨h1, h2, -, h4, -⟩ := State.settleStep_none_iff.mp hs
  obtain ⟨h3, h5⟩ := State.plain_settles hp
  refine State.settleStep_none_iff.mpr ⟨State.coeAdvance_none hc hf hr hd hu h1, State.testMarker_none hm hh h2, h3,
    State.offering_none_iff.mpr fun p hx => ?_, h5⟩
  have waits : s.hasReport p = true → p ≠ .cap → p ∈ t.lif.waitList := fun a b => by
    have := State.offering_none_iff.mp h4 p a
    rw [hw, List.mem_cons] at this
    exact hw' ▸ this.resolve_left b
  cases p with
  | cap => simp [State.hasReport, hq] at hx
  | frd => exact waits (by simpa [State.hasReport, hf] using hx) (by simp)
  | coe => exact waits (by simpa [State.hasReport, hc] using hx) (by simp)
  | scn => exact waits (by simpa [State.hasReport, hdue] using hx) (by simp)

/-- Settles O57: the report waits behind those that wait, or is placed at once; and it is placed when a record
that ends gives it the room. -/
theorem calibrationResultsAreWritten : Obligations.CalibrationResultsAreWritten := by
  constructor
  · intro s run done f px hq ho hc hp hf hl hn hr hd
    have row {u : State} (hu : (s.pixelsArrive false px).settle = u) :
        exec (.calLineComplete px) s = .next u.arbitrate := congrArg (fun v : State => Host.Outcome.next v.arbitrate) hu
    have hpx := State.pixelsArrive_lastWhite ho hc hp hf hl hn hd false
    refine ⟨fun hfull hw => row ?_, fun hopen => row ?_⟩
    · rw [hpx]
      exact State.settle_calWaits hq.settled rfl rfl rfl rfl rfl (by simp [ho, OpState.plain]) rfl hw rfl hfull
    · rw [hpx]
      have hverdict (b : Bool) : (if b then CalOutcome.failed else .passed) = .passed ∨
          (if b then CalOutcome.failed else .passed) = .failed := by cases b <;> simp
      rw [State.settle_calPlaced hq.settled (by simp [ho, OpState.plain]) hr hopen rfl rfl (hverdict _),
        State.placeCal_written _ rfl rfl (hverdict _), CalReport.record_of_verdict (hverdict _)]
      have hdark : done.darkAvg = run.darkAvg := by rw [hd]; rfl
      rw [hdark]
      dsimp only [State.setCap_cap, State.setLif_cap]
      rw [hr]
      cases calFailed s.scn.setup.w done.weak <;> rfl
  · intro s run r x taken rest waiting hs ho hc hr hv hw htx hh hre hrp hnd hrep
    have hout : r.outcome = .passed ∨ r.outcome = .failed := hv.imp And.left And.left
    have hvalid : decide (r.outcome = .passed) = r.valid := by
      rcases hv with ⟨a, b⟩ | ⟨a, b⟩ <;> rw [a, b] <;> rfl
    have hroom := (State.giveRoom_cal (s := s.setLif { s.lif with tx := some taken, reports := rest }) hc hr hout
      hw).trans (State.placeCal_written _ (by exact hc) (by exact hr) hout)
    rw [CalReport.record_of_verdict hout, hvalid] at hroom
    refine congrArg Host.Outcome.next ((State.recordEnds_report htx hh hre hrp hnd hrep).trans ?_)
    rw [hroom, State.settle_of_settled]
    · rfl
    · exact State.settled_of_placed hs rfl rfl rfl rfl rfl rfl rfl rfl rfl rfl hw rfl

end Sys2Proof.Machine

/-! PROOF. Operations that end early: a late line, the END edge, and ABORT outside a scan (O38, O42, O45). -/

namespace Sys2Proof.Machine

open Sys2Proof

/-! ## Flags -/

theorem CauseSet.or_and_self (x y : CauseSet) : (x ||| y) &&& y = y := by
  ext i hi
  simp only [BitVec.getElem_and, BitVec.getElem_or]
  cases x[i] <;> cases y[i] <;> rfl

/-- A raised cause is pending. -/
theorem State.raise_pending (s : State) (c : Cause) : (s.raise c).ntu.pending &&& c.bit = c.bit := by
  rw [State.raise_form]
  exact CauseSet.or_and_self _ _

/-- A raise changes the Notice Unit and the notice slot only. -/
theorem State.raise_changes (s : State) (c : Cause) : ∃ n d,
    s.raise c = (s.setNtu n).setLif { s.lif with noticeDue := d } ∧ n.pending &&& c.bit = c.bit ∧
      n.haltedCond = s.ntu.haltedCond := by
  rw [State.raise_form]
  exact ⟨_, _, rfl, CauseSet.or_and_self _ _, rfl⟩

/-! ## A scan that a fault ends -/

theorem Scn.due_reachAll (c : Scn) : (c.reachAll true).due = c.due ++ abortedReports c.markers := by
  unfold Scn.reachAll abortedReports
  rw [List.map_const']

theorem State.scanClear_scn (s : State) : s.scanClear.scn = { s.scn with abandoned := s.frd.table.length } := by
  obtain ⟨_, _, _, -, -, e⟩ := State.scanClear_changes s
  rw [e]
  rfl

/-- A fault ends a scan: the scan is cleared, FAULT is due first, the aborted markers follow, SCAN_END is last, and
the device is FAULTED (R158, R163). -/
theorem State.scanFault_form (s : State) (kind : FaultKind) (late : Nat) : s.scanFault kind late =
    (s.scanClear.setScn { s.scn with
      abandoned := s.frd.table.length
      endReason := some .fault
      endFault := some kind
      markers := abortedMarkers s.scn.markers
      due := s.scn.due ++ [.fault ⟨kind, s.scn.op, late⟩] ++ abortedReports s.scn.markers ++ [.scanEnd] }).setOp
        .faulted := by
  unfold State.scanFault
  simp only [Scn.due_reachAll, State.scanClear_scn]
  rfl

/-- What a scan's clearing says of a state, it says of every state that differs in nothing that it reads. -/
theorem ScanCleared.of_same {s v u : State} (h : ScanCleared v u) (cap : v.cap.endCapture = s.cap.endCapture)
    (frd : v.frd = s.frd) (dfd : v.dfd = s.dfd) (coe : v.coe = s.coe) (scn : v.scn = s.scn)
    (trc : v.trc.position = s.trc.position ∧ v.trc.valid = s.trc.valid ∧ v.trc.cap = s.trc.cap)
    (lif : ∃ d, v.lif = { s.lif with noticeDue := d })
    (pins : v.pins.home = s.pins.home ∧ v.pins.linkHold = s.pins.linkHold) : ScanCleared s u := by
  obtain ⟨d, lif⟩ := lif
  obtain ⟨hp, hv, hc⟩ := trc
  constructor
  case cap => exact h.cap.trans cap
  case rng => exact h.rng
  case frd => rw [h.frd, frd]
  case dfd => rw [h.dfd, dfd]
  case rpe => exact h.rpe
  case coe => rw [h.coe, coe]
  case carriage => rw [← hp, ← hv]; exact h.carriage
  case brakes => exact h.brakes
  case demands => rw [← hc]; exact h.demands
  case counts => rw [← frd, ← scn]; exact h.counts
  case link =>
    obtain ⟨due, e⟩ := h.link
    exact ⟨due, by rw [e, lif]⟩
  case pins => rw [← pins.1, ← pins.2]; exact h.pins

/-- What a fault leaves of a scan, from a state `v` that differs from `s` in nothing that the clearing reads and
whose pending causes hold `c` (R158, R163). -/
theorem State.scanFault_ends {s v : State} {kind : FaultKind} {late : Nat} {c : Cause}
    (cap : v.cap.endCapture = s.cap.endCapture) (frd : v.frd = s.frd) (dfd : v.dfd = s.dfd) (coe : v.coe = s.coe)
    (scn : v.scn = s.scn)
    (trc : v.trc.position = s.trc.position ∧ v.trc.valid = s.trc.valid ∧ v.trc.cap = s.trc.cap)
    (lif : ∃ d, v.lif = { s.lif with noticeDue := d })
    (pins : v.pins.home = s.pins.home ∧ v.pins.linkHold = s.pins.linkHold)
    (hc : v.ntu.pending &&& c.bit = c.bit) :
    ScanCleared s (v.scanFault kind late) ∧ (v.scanFault kind late).scn.op = .faulted ∧
      (v.scanFault kind late).scn.endReason = some .fault ∧ (v.scanFault kind late).scn.endFault = some kind ∧
      (v.scanFault kind late).scn.markers = abortedMarkers s.scn.markers ∧
      (v.scanFault kind late).scn.due =
        s.scn.due ++ [.fault ⟨kind, s.scn.op, late⟩] ++ abortedReports s.scn.markers ++ [.scanEnd] ∧
      (v.scanFault kind late).ntu.pending &&& c.bit = c.bit ∧ (v.scanFault kind late).pins = v.pins ∧
      (v.trc.motion = .parked → v.trc.braking = false →
        (v.scanFault kind late).trc.motion = .parked ∧ (v.scanFault kind late).trc.braking = false) := by
  rw [State.scanFault_form]
  generalize hx : ({ v.scn with
    abandoned := v.frd.table.length
    endReason := some .fault
    endFault := some kind
    markers := abortedMarkers v.scn.markers
    due := v.scn.due ++ [.fault ⟨kind, v.scn.op, late⟩] ++ abortedReports v.scn.markers ++ [.scanEnd] } : Scn) = x
  obtain ⟨cleared, hscn, hpins, within, stands⟩ := State.scanCleared v x .faulted
    (by rw [← hx]; exact ⟨rfl, rfl, rfl, rfl, rfl, rfl⟩)
  refine ⟨cleared.of_same cap frd dfd coe scn trc lif pins, ?_⟩
  rw [hscn, ← hx, ← scn]
  exact ⟨rfl, rfl, rfl, rfl, rfl, within _ hc, hpins, stands⟩

/-! ## Late lines -/

/-- A late line of a scan is a fault (R3, R158). -/
theorem State.lateLine_scanning {s : State} {f : Flight} (ho : s.scn.op = .scanning) (hf : s.cap.inFlight = some f) :
    s.lateLine = ((s.setCap s.cap.endCapture).raise .lineLate).scanFault .lineLate f.number := by
  unfold State.lateLine
  simp only [hf]
  exact if_pos ho

/-- A late line of a calibration run ends the run and orders a stop (R3, R13). -/
theorem State.lateLine_calibrating {s : State} {f : Flight} (ho : s.scn.op = .calibrating)
    (hf : s.cap.inFlight = some f) : s.lateLine =
      ((((s.setCap s.cap.endCapture).raise .lineLate).endCalRun .late).stopOrder).setOp .stopping := by
  unfold State.lateLine
  simp only [hf]
  rw [if_neg (by simp [ho]), if_pos (by exact ho)]

/-- What a late line of a scan leaves (R3, R158, R163). -/
theorem State.lateLine_ends {s : State} {f : Flight} (ho : s.scn.op = .scanning) (hf : s.cap.inFlight = some f) :
    ScanCleared s s.lateLine ∧ s.lateLine.scn.op = .faulted ∧ s.lateLine.scn.endReason = some .fault ∧
      s.lateLine.scn.endFault = some .lineLate ∧ s.lateLine.scn.markers = abortedMarkers s.scn.markers ∧
      s.lateLine.scn.due = s.scn.due ++ [.fault ⟨.lineLate, .scanning, f.number⟩] ++
        abortedReports s.scn.markers ++ [.scanEnd] ∧
      s.lateLine.ntu.pending &&& 0x008#9 = 0x008#9 := by
  obtain ⟨n, d, e, hn, -⟩ := State.raise_changes (s.setCap s.cap.endCapture) .lineLate
  rw [State.lateLine_scanning ho hf, ← ho]
  generalize (s.setCap s.cap.endCapture).raise .lineLate = v at e ⊢
  obtain ⟨h1, h2, h3, h4, h5, h6, h7, -⟩ := State.scanFault_ends (s := s) (v := v) (kind := .lineLate)
    (late := f.number) (c := .lineLate) (by rw [e]; rfl) (by rw [e]; rfl) (by rw [e]; rfl) (by rw [e]; rfl)
    (by rw [e]; rfl) (by rw [e]; exact ⟨rfl, rfl, rfl⟩) ⟨d, by rw [e]; rfl⟩ (by rw [e]; exact ⟨rfl, rfl⟩)
    (by rw [e]; exact hn)
  exact ⟨h1, h2, h3, h4, h5, h6, h7⟩

/-- The step of a cruising carriage with the gate OPEN and a line in flight makes that line late (R3). -/
theorem State.StepsTo.late {s : State} {next : Half} {e : Nat} {f : Flight} (h : s.StepsTo next)
    (ho : s.scn.op = .scanning) (hf : s.cap.inFlight = some f) (hg : s.cap.gateOpen = true)
    (hm : s.trc.motion = .cruising) (hb : s.trc.braking = false) :
    s.intervalExpires e = (s.setTrc { s.trc with position := next }).lateLine := by
  have hl : s.stepOnce = (s.setTrc { s.trc with position := next }).lateLine := by
    unfold State.stepOnce State.lineStep
    rw [h.stepped_eq, if_pos (by exact hg), if_pos (by simp [hf])]
  rw [h.intervalExpires (by simp [hm]) hb (by simp [hm]), State.motionStep_cruising hm, hl]
  have hstop := (State.lateLine_ends (s := s.setTrc { s.trc with position := next }) ho hf).1.brakes
  unfold State.startInterval
  exact if_pos (by simpa using hstop)

/-- A late line of a calibration run whose carriage stands: CAL_DONE reporting LATE is due, the tables are kept
(R13). -/
theorem State.lateLine_endsRun {s : State} {f : Flight} {run : CalRun} (ho : s.scn.op = .calibrating)
    (hc : s.cap.cal = some run) (hf : s.cap.inFlight = some f) :
    s.lateLine.scn = { s.scn with op := .stopping } ∧
      s.lateLine.cap = { s.cap with
        gateOpen := false
        inFlight := none
        watchdog := false
        calTimer := false
        cal := none
        report := some ⟨.late, run.lines, run.target, ⟨0, 0, 0, 0⟩, s.cap.valid⟩ } ∧
      s.lateLine.ntu.pending &&& 0x008#9 = 0x008#9 := by
  obtain ⟨n, d, e, hn, -⟩ := State.raise_changes (s.setCap s.cap.endCapture) .lineLate
  rw [State.lateLine_calibrating ho hf, e]
  generalize hv : ((s.setCap s.cap.endCapture).setNtu n).setLif _ = v
  have hr : v.endCalRun .late = v.setCap (v.cap.endRun .late) := if_pos (by rw [← hv]; simp [Cap.endCapture, hc])
  obtain ⟨x, hx, -⟩ := State.stopOrder_changes (v.endCalRun .late)
  rw [hx, State.setOp_form _ (by decide), hr, ← hv]
  refine ⟨rfl, ?_, hn⟩
  simp [Cap.endRun, Cap.endCapture, hc]
  rfl

/-- Settles O45. -/
theorem lateLinesEndTheOperation : Obligations.LateLinesEndTheOperation := by
  intro s
  refine ⟨fun hw => ?_, fun f ho hf c s1 hc => ?_, fun line rest hd => ?_, fun f run ho hcal hf _ _ c hc => ?_⟩
  · exact congrArg Host.Outcome.next (if_neg (by simp [hw]))
  · obtain ⟨rfl, hw, rfl⟩ | ⟨released, elapsed, rfl, hg, hm, hb, hd, he, hp, rfl⟩ := hc
    · exact ⟨_, congrArg Host.Outcome.next (if_pos hw), State.lateLine_ends ho hf⟩
    · have fell : s.endFell released = s.setPins { s.pins with endStop := false } := by
        unfold State.endFell
        cases released with
        | true => rfl
        | false =>
          have h : s.pins.endStop = false := by simpa using he
          rw [if_neg Bool.false_ne_true, ← h]
          rfl
      have h : (s.setPins { s.pins with endStop := false }).StepsTo (s.trc.position + 1) :=
        .inl ⟨hd, rfl, rfl, fun _ => hp⟩
      refine ⟨_, ?_, State.lateLine_ends (s := (s.setPins _).setTrc _) ho hf⟩
      refine congrArg (fun u : State => Host.Outcome.next u.finish) ?_
      rw [fell]
      exact h.late ho hf hg hm hb
  · unfold State.placeScn
    rw [hd]
    rfl
  · refine ⟨s.lateLine, ?_, State.lateLine_endsRun ho hcal hf⟩
    obtain ⟨rfl, hw⟩ | ⟨rfl, ht⟩ := hc
    · exact congrArg Host.Outcome.next (if_pos hw)
    · refine congrArg (fun u : State => Host.Outcome.next u.finish) ?_
      unfold State.calTimerEnds
      rw [if_pos ht, if_pos (by simp [hf])]

end Sys2Proof.Machine

/-! PROOF. The END edge, and ABORT outside a scan: what is due is placed at once or waits, and the rest is settled
(O38, O42). -/

namespace Sys2Proof.Machine

open Sys2Proof

/-! ## What becomes due in a settled device with room in its report queue -/

/-- From a settled device, what the Scan Controller and the Capture Unit make due starts no output step and reaches
no marker. -/
theorem State.due_settles {s t : State} {due : List ScnReport} {b : Bool} (hs : s.settleStep = none)
    (h : t.reactive = { s.reactive with due := due, report := b }) : t.coeAdvance = none ∧ t.testMarker = none := by
  obtain ⟨h1, h2, -⟩ := State.settleStep_none_iff.mp hs
  simp only [State.reactive, Reactive.mk.injEq] at h
  obtain ⟨hc, hf, hr, hd, hu, hm, hh, -, -, -⟩ := h
  exact ⟨State.coeAdvance_none hc hf hr hd hu h1, State.testMarker_none hm hh h2⟩

/-- An open report queue, in parts. -/
theorem State.reportsOpen_iff {s : State} :
    s.reportsOpen = true ↔ s.lif.reports.length < 8 ∧ s.lif.waitList = [] := by
  unfold State.reportsOpen
  rw [Bool.and_eq_true, decide_eq_true_eq, decide_eq_true_eq]
  rfl

/-- While the queue is open, a settled device has nothing due. -/
theorem State.nothingDue {s : State} (hs : s.settleStep = none) (ho : s.reportsOpen = true) :
    s.scn.due = [] ∧ s.cap.report = none := by
  have h1 := State.noReport hs ho .scn
  have h2 := State.noReport hs ho .cap
  exact ⟨by simpa [State.hasReport] using h1, by simpa [State.hasReport] using h2⟩

/-- CAL_DONE of a run that has ended early is placed; nothing more is written (R13, R173). -/
theorem State.placeCal_early {t : State} {r : CalReport} (hr : t.cap.report = some r) (hc : t.cap.cal = none) :
    t.placeCal = (t.pushReport r.record).setCap { t.cap with report := none } := by
  unfold State.placeCal
  rw [hr]
  dsimp only
  rw [hc]

/-- CAL_DONE is due in a settled device whose queue is open, and whatever else the Scan Controller makes due: it is
placed first (R173). -/
theorem State.settleStep_early {s t : State} {due : List ScnReport} {r : CalReport} (hs : s.settleStep = none)
    (ho : s.reportsOpen = true) (h : t.reactive = { s.reactive with due := due, report := true })
    (hd : t.scn.op ≠ .draining) (hl : t.lif.reports = s.lif.reports) (hr : t.cap.report = some r)
    (hc : t.cap.cal = none) :
    t.settleStep = some ((t.pushReport r.record).setCap { t.cap with report := none }) := by
  obtain ⟨h1, h2⟩ := State.due_settles hs h
  have hw : t.lif.waitList = s.lif.waitList := congrArg Reactive.waitList h
  rw [State.settleStep_cal h1 h2 (State.drainCheck_none (.inl hd)) (by rw [hr]; rfl)
    (State.reportsOpen_iff.mpr (by rw [hl, hw]; exact State.reportsOpen_iff.mp ho)), State.placeCal_early hr hc]

/-- A FAULT alone is due: it is placed, formed from the values that stand then, and that is all (R163, R173). -/
theorem State.settle_fault {s t : State} {f : FaultReport} (hs : s.settleStep = none) (ho : s.reportsOpen = true)
    (h : t.reactive = { s.reactive with due := [.fault f] }) (hp : t.scn.op.plain = true)
    (hl : t.lif.reports.length < 8) :
    t.settleStep = some ((t.pushReport (t.faultRecord f)).setScn { t.scn with due := [] }) ∧
      ((t.pushReport (t.faultRecord f)).setScn { t.scn with due := [] }).settleStep = none := by
  obtain ⟨h1, h2⟩ := State.due_settles (b := s.reactive.report) hs h
  have hdue : t.scn.due = [.fault f] := congrArg Reactive.due h
  have hw : t.lif.waitList = s.lif.waitList := congrArg Reactive.waitList h
  have hplace : t.placeScn = (t.pushReport (t.faultRecord f)).setScn { t.scn with due := [] } := by
    unfold State.placeScn
    rw [hdue]
  have others (p : Producer) (hp : p ≠ .scn) : t.hasReport p = false := by
    rw [← State.noReport hs ho p]
    simp only [State.reactive, Reactive.mk.injEq] at h
    obtain ⟨hc, hf, -, -, -, -, -, -, -, hr⟩ := h
    cases p with
    | cap => exact hr
    | frd => simp only [State.hasReport, hf]
    | coe => simp only [State.hasReport, hc]
    | scn => exact absurd rfl hp
  constructor
  · rw [← hplace]
    exact State.settleStep_scn h1 h2 (State.plain_settles hp).1 others (by simp [hdue])
      (State.reportsOpen_iff.mpr ⟨hl, by rw [hw]; exact (State.reportsOpen_iff.mp ho).2⟩)
  · refine State.settled_of_reactive hs ?_ hp
    have hnone := (State.nothingDue hs ho).1
    calc ((t.pushReport (t.faultRecord f)).setScn { t.scn with due := [] }).reactive
        = { t.reactive with due := [] } := rfl
      _ = { s.reactive with due := [] } := by rw [h]
      _ = s.reactive := congrArg (fun d => { s.reactive with due := d }) hnone.symm

/-! ## The END edge -/

/-- The carriage that the END edge stops, with the level seen (R131). -/
def State.endStopped (s : State) : State := (s.setPins { s.pins with endStop := true }).stopAtOnce

/-- The END edge of a carriage that steps (R131). -/
theorem State.endRises_stops {s : State} (h : s.trc.motion ≠ .parked ∨ s.trc.braking = true) : s.endRises =
    if s.scn.op = .positioning then (s.endStopped.raise .endStop).moveFault .endStop
    else if s.scanRuns then (s.endStopped.raise .endStop).scanFault .endStop 0
    else s.endStopped.raise .endStop := by
  unfold State.endRises
  have hstanding : s.trc.standing = false := by
    unfold Trc.standing
    rcases h with h | h <;> simp [h]
  rw [if_neg (by simp [hstanding])]
  rfl

/-- The END edge changes the carriage, the level, the Notice Unit and the notice slot only. -/
theorem State.endStopped_raise (s : State) : ∃ n d, s.endStopped.raise .endStop =
    (s.endStopped.setNtu n).setLif { s.lif with noticeDue := d } := by
  obtain ⟨n, d, e, -⟩ := State.raise_changes s.endStopped .endStop
  exact ⟨n, d, e⟩

/-- The FAULT of a move that the END edge ends (R158, R164). -/
theorem State.faultRecord_endStop (s : State) : s.faultRecord ⟨.endStop, .positioning, 0⟩ =
    ⟨0x45#8, 0#8, [2#8, 1#8, 0#8, 0#8, byte s.trc.position.toNat, byte (s.trc.position.toNat / 256),
      flagByte s.trc.valid]⟩ := by
  simp [State.faultRecord, State.faultLine, le16, faultCode, OpState.code]
  decide

/-- A move that the END edge ends: FAULTED, with a FAULT due (R158). -/
theorem State.moveFault_endStop {s v : State} (hs : s.settleStep = none) (hopen : s.reportsOpen = true)
    (ho : s.scn.op = .positioning) (hv : v.scn = s.scn) : v.moveFault .endStop =
      ((v.endCalRun .aborted).setScn { s.scn with
        op := .faulted
        due := [.fault ⟨.endStop, .positioning, 0⟩] }).setNtu { v.ntu with haltedCond := false } := by
  have hscn : (v.endCalRun .aborted).scn = s.scn := by
    unfold State.endCalRun
    split
    · exact hv
    · exact hv
  have hntu : (v.endCalRun .aborted).ntu = v.ntu := by
    unfold State.endCalRun
    split <;> rfl
  unfold State.moveFault
  dsimp only
  rw [State.setOp_form _ (by decide), hscn, (State.nothingDue hs hopen).1, hv, ho]
  dsimp only [State.setScn_ntu, State.setScn_scn]
  rw [hntu]
  rfl

/-- The END edge in a MOVE or a HOME: the FAULT is placed (R158, R163). -/
theorem State.endFault_settles {s v : State} (hs : s.settleStep = none) (hopen : s.reportsOpen = true)
    (ho : s.scn.op = .positioning) (hc : v.cap.cal = none) (hv : v.scn = s.scn) (hre : v.reactive = s.reactive)
    (hl : v.lif.reports = s.lif.reports) :
    (v.moveFault .endStop).settle = ((v.setScn { s.scn with op := .faulted }).setNtu { v.ntu with
      haltedCond := false }).pushReport (v.faultRecord ⟨.endStop, .positioning, 0⟩) := by
  rw [State.moveFault_endStop hs hopen ho hv, show v.endCalRun .aborted = v from if_neg (by simp [hc])]
  obtain ⟨h1, h2⟩ := State.settle_fault (f := ⟨.endStop, .positioning, 0⟩) (t := (v.setScn { s.scn with
    op := .faulted, due := [.fault ⟨.endStop, .positioning, 0⟩] }).setNtu { v.ntu with haltedCond := false }) hs hopen
    (by rw [← hre, ← hv]; rfl) rfl (by exact hl ▸ (State.reportsOpen_iff.mp hopen).1)
  rw [State.settle_one h1 h2]
  have hdue : ({ s.scn with op := .faulted } : Scn) = { s.scn with op := .faulted, due := [] } :=
    congrArg (fun d => ({ s.scn with op := .faulted, due := d } : Scn)) (State.nothingDue hs hopen).1
  rw [hdue]
  rfl

/-- The CAL_DONE of a run that ends early (R13, R199). -/
def CalRun.earlyReport (run : CalRun) (outcome : CalOutcome) (valid : Bool) : CalReport :=
  ⟨outcome, run.lines, run.target, .const 0, valid⟩

/-- A run that has ended early, its CAL_DONE placed, is what `afterEarlyEnd` says (R13). -/
theorem afterEarlyEnd_eq {s u : State} {run : CalRun} {outcome : CalOutcome} :
    ((u.setCap (s.cap.endRun outcome)).pushReport (run.earlyReport outcome s.cap.valid).record).setCap
      { s.cap.endRun outcome with report := none } = afterEarlyEnd s run outcome u := by
  have hrecord : (run.earlyReport outcome s.cap.valid).record = ⟨0x44#8, 0#8, [outcome.code, byte run.lines] ++
      le16 run.target ++ [0#8, 0#8, 0#8, 0#8, 0#8, 0#8, 0#8, 0#8, flagByte s.cap.valid]⟩ := by
    simp [CalReport.record, CalRun.earlyReport, PerChannel.const, le16]
    decide
  rw [hrecord]
  rfl

/-- The END edge in the move of a calibration run: CAL_DONE is placed, and the FAULT after it (R8, R158). -/
theorem State.endCal_settles {s v : State} {run : CalRun} (hs : s.settleStep = none) (hopen : s.reportsOpen = true)
    (ho : s.scn.op = .positioning) (hc : v.cap.cal = some run) (hv : v.scn = s.scn) (hre : v.reactive = s.reactive)
    (hl : v.lif.reports = s.lif.reports) (hroom : s.lif.reports.length + 2 ≤ 8) :
    (v.moveFault .endStop).settle = (afterEarlyEnd v run .aborted ((v.setScn { s.scn with
      op := .faulted }).setNtu { v.ntu with haltedCond := false })).pushReport
        (v.faultRecord ⟨.endStop, .positioning, 0⟩) := by
  obtain ⟨hdue, hreport⟩ := State.nothingDue hs hopen
  have hrun : v.endCalRun .aborted = v.setCap (v.cap.endRun .aborted) := if_pos (by simp [hc])
  have hend : (v.cap.endRun .aborted).report = some (run.earlyReport .aborted v.cap.valid) := by
    simp [Cap.endRun, hc, CalRun.earlyReport]
  rw [State.moveFault_endStop hs hopen ho hv, hrun]
  generalize ht : ((v.setCap (v.cap.endRun .aborted)).setScn { s.scn with
    op := .faulted, due := [.fault ⟨.endStop, .positioning, 0⟩] }).setNtu { v.ntu with haltedCond := false } = t
  have hcal := State.settleStep_early (t := t) (due := [.fault ⟨.endStop, .positioning, 0⟩]) hs hopen
    (by rw [← hre, ← ht, ← hv]
        exact congrArg (fun b => { v.reactive with due := [.fault ⟨.endStop, .positioning, 0⟩], report := b })
          (congrArg Option.isSome hend))
    (by rw [← ht]; exact OpState.noConfusion) (by rw [← ht]; exact hl) (by rw [← ht]; exact hend) (by rw [← ht]; rfl)
  generalize hu : (t.pushReport (run.earlyReport .aborted v.cap.valid).record).setCap { t.cap with report := none } = u
    at hcal
  obtain ⟨h1, h2⟩ := State.settle_fault (f := ⟨.endStop, .positioning, 0⟩) (t := u) hs hopen
    (by rw [← hre, ← hu, ← ht, ← hv]
        exact congrArg (fun b => { v.reactive with due := [.fault ⟨.endStop, .positioning, 0⟩], report := b })
          (show false = v.reactive.report by rw [hre]; simp [State.reactive, hreport]))
    (by rw [← hu, ← ht]; rfl) (by rw [← hu, ← ht]; simp [State.pushReport, hl]; omega)
  rw [State.settle_two hcal h1 h2, ← afterEarlyEnd_eq]
  have hdue' : ({ s.scn with op := .faulted } : Scn) = { s.scn with op := .faulted, due := [] } :=
    congrArg (fun d => ({ s.scn with op := .faulted, due := d } : Scn)) hdue
  rw [hdue', ← hu, ← ht]
  rfl

/-- The END edge in STOPPING is the stop event (R160). -/
theorem State.endStopping_settles {s v : State} (hs : s.settleStep = none) (ho : s.scn.op = .stopping)
    (hv : v.scn = s.scn) (hre : v.reactive = s.reactive) (hstands : v.trc.standing = true)
    (hdue : .scanEnd ∉ s.scn.due) (hr : v.cap.report = none) :
    v.settle = (v.setScn { s.scn with op := .idle }).setNtu { v.ntu with haltedCond := false } := by
  obtain ⟨-, -, -, h4, -⟩ := State.settleStep_none_iff.mp hs
  obtain ⟨h1, h2⟩ := State.due_settles hs (t := v) hre
  have hsame := hre
  simp only [State.reactive, Reactive.mk.injEq] at hsame
  obtain ⟨hc, hf, -, -, -, -, -, he, hw, hq⟩ := hsame
  have hidle : (v.setOp .idle).settleStep = none :=
    State.settled_of_reactive hs (by rw [State.setOp_form _ (by decide), ← hre]; rfl)
      (by rw [State.setOp_form _ (by decide)]; rfl)
  have hstep : v.settleStep = some (v.setOp .idle) :=
    State.settleStep_stops h1 h2 (State.drainCheck_none (.inl (by simp [hv, ho])))
      ((State.offering_eq hw (State.hasReport_eq hc hf he hq)).trans h4)
      (by simp [State.stoppingEnds, hv, ho, hstands, hdue, hr])
  rw [State.settle_one hstep hidle, State.setOp_form _ (by decide), hv]

/-- The END edge outside a move, a scan and STOPPING: nothing is left to settle (R131). -/
theorem State.endQuiet_settles {s v : State} (hs : s.settleStep = none) (hrun : s.scanRuns = false)
    (ho : s.scn.op ≠ .stopping) (hv : v.scn = s.scn) (hre : v.reactive = s.reactive) : v.settle = v := by
  obtain ⟨-, -, -, h4, -⟩ := State.settleStep_none_iff.mp hs
  obtain ⟨h1, h2⟩ := State.due_settles hs (t := v) hre
  simp only [State.reactive, Reactive.mk.injEq] at hre
  obtain ⟨hc, hf, -, -, -, -, -, he, hw, hq⟩ := hre
  have hdrain : v.drainCheck = none := by
    refine State.drainCheck_none (Decidable.not_and_iff_not_or_not.mp ?_)
    rw [hv]
    rintro ⟨a, b⟩
    simp [State.scanRuns, a, b] at hrun
  exact State.settle_of_settled (State.settleStep_none_iff.mpr ⟨h1, h2, hdrain,
    (State.offering_eq hw (State.hasReport_eq hc hf he hq)).trans h4, by simp [State.stoppingEnds, hv, ho]⟩)

/-- What the END edge leaves of a scan (R158, R163). -/
theorem State.endScan_ends {s v : State} {n : Ntu} {d : Bool}
    (hv : v = (s.endStopped.setNtu n).setLif { s.lif with noticeDue := d })
    (hn : v.ntu.pending &&& Cause.endStop.bit = Cause.endStop.bit) :
    let u := v.scanFault .endStop 0
    ScanCleared s u ∧ u.trc.motion = .parked ∧ u.trc.braking = false ∧ u.scn.op = .faulted ∧
      u.scn.endReason = some .fault ∧ u.scn.endFault = some .endStop ∧
      u.scn.markers = abortedMarkers s.scn.markers ∧
      u.scn.due = s.scn.due ++ [.fault ⟨.endStop, s.scn.op, 0⟩] ++ abortedReports s.scn.markers ++ [.scanEnd] ∧
      u.pins.endStop = true ∧ u.ntu.pending &&& 0x020#9 = 0x020#9 := by
  intro u
  obtain ⟨h1, h2, h3, h4, h5, h6, h7, hpins, hstands⟩ := State.scanFault_ends (s := s) (v := v) (kind := .endStop)
    (late := 0) (c := .endStop) (by rw [hv]; rfl) (by rw [hv]; rfl) (by rw [hv]; rfl) (by rw [hv]; rfl)
    (by rw [hv]; rfl) (by rw [hv]; exact ⟨rfl, rfl, rfl⟩) ⟨d, by rw [hv]; rfl⟩ (by rw [hv]; exact ⟨rfl, rfl⟩) hn
  obtain ⟨hmotion, hbraking⟩ := hstands (by rw [hv]; rfl) (by rw [hv]; rfl)
  exact ⟨h1, hmotion, hbraking, h2, h3, h4, h5, h6, by rw [hpins, hv]; rfl, h7⟩

/-- Settles O42. -/
theorem endEdgeStopsTheCarriage : Obligations.EndEdgeStopsTheCarriage := by
  intro s
  refine ⟨fun hq hm hb => ?_, fun hm v fault hv hfault => ?_⟩
  · refine congrArg Host.Outcome.next ?_
    have hrises : s.endRises = s.setPins { s.pins with endStop := true } := if_pos (by simp [Trc.standing, hm, hb])
    rw [hrises]
    exact State.finish_of_still hq rfl rfl rfl rfl
  obtain ⟨n, d, hraise⟩ := State.endStopped_raise s
  have hraised : v = s.endStopped.raise .endStop := hv
  have hform : v = (s.endStopped.setNtu n).setLif { s.lif with noticeDue := d } := hraised.trans hraise
  have hscn : v.scn = s.scn := by rw [hform]; rfl
  have hcap : v.cap = s.cap := by rw [hform]; rfl
  have hre : v.reactive = s.reactive := by rw [hform]; rfl
  have hl : v.lif.reports = s.lif.reports := by rw [hform]; rfl
  have hstands : v.trc.standing = true := by rw [hform]; rfl
  have hrecord : v.faultRecord ⟨.endStop, .positioning, 0⟩ = fault := by
    rw [hfault, State.faultRecord_endStop, hform]
    rfl
  have hrises := State.endRises_stops hm
  rw [← hraised] at hrises
  refine ⟨fun hq ho hc hopen => ?_, fun run hq ho hc hopen hroom => ?_, fun hq ho hdue hr => ?_,
    fun hq hrun h1 h2 => ?_, fun ho => ?_⟩
  · rw [if_pos ho] at hrises
    have := State.endFault_settles hq.settled hopen ho (by rw [hcap, hc]) hscn hre hl
    exact congrArg (fun t : State => Host.Outcome.next t.arbitrate)
      ((congrArg State.settle hrises).trans (this.trans (by rw [hrecord]; unfold State.pushReport; rw [← hl]; rfl)))
  · rw [if_pos ho] at hrises
    have := State.endCal_settles hq.settled hopen ho (by rw [hcap, hc]) hscn hre hl hroom
    exact congrArg (fun t : State => Host.Outcome.next t.arbitrate)
      ((congrArg State.settle hrises).trans (this.trans (by rw [hrecord])))
  · rw [if_neg (by simp [ho]), if_neg (by simp [State.scanRuns, ho])] at hrises
    exact congrArg (fun t : State => Host.Outcome.next t.arbitrate) ((congrArg State.settle hrises).trans
      (State.endStopping_settles hq.settled ho hscn hre hstands hdue (by rw [hcap, hr])))
  · rw [if_neg h1, if_neg (by simp [hrun])] at hrises
    exact congrArg (fun t : State => Host.Outcome.next t.arbitrate) ((congrArg State.settle hrises).trans
      (State.endQuiet_settles hq.settled hrun h2 hscn hre))
  · have hnot : s.scn.op ≠ .positioning := by
      rintro h
      simp [h] at ho
    have hrun : s.scanRuns = true := by
      rcases ho with h | h | ⟨h, h'⟩ <;> simp [State.scanRuns, *]
    rw [if_neg hnot, if_pos hrun] at hrises
    exact ⟨_, congrArg (fun t : State => Host.Outcome.next t.finish) hrises,
      State.endScan_ends hform (by rw [hraised]; exact State.raise_pending _ _)⟩

end Sys2Proof.Machine

/-! PROOF. ABORT outside a scan (O38). -/

namespace Sys2Proof.Machine

open Sys2Proof

/-! ## The stop order -/

/-- The carriage after a stop order that leaves it where it is (R130, R144). -/
def Trc.ordered (t : Trc) : Trc := { t with
  scanOn := false
  lampReady := false
  ramp := none
  hold := false
  holdDone := false
  target := none
  queued := none
  current := .s0 }

/-- A stop order to a carriage that brakes or stands (R130). -/
theorem State.stopOrder_stays {s : State} (h : s.trc.braking = true ∨ s.trc.motion = .parked) :
    s.stopOrder = s.setTrc s.trc.ordered := by
  unfold State.stopOrder
  dsimp only
  split
  · rfl
  · rename_i hb
    rw [if_pos (h.resolve_left hb)]
    rfl

/-- A stop order to a HOME whose edge waits: the carriage stands (R156). -/
theorem State.stopOrder_edgeWaits {s : State} (h : s.edgeWaits = true) : s.stopOrder = s.setTrc { s.trc.ordered with
    motion := .parked
    homing := none
    brakesLeft := 0
    interval := 0 } := by
  have hedge := h
  simp only [State.edgeWaits, State.seeksEdge, Bool.and_eq_true, Bool.not_eq_true', decide_eq_true_eq] at hedge
  obtain ⟨⟨⟨⟨-, hm⟩, hb⟩, -⟩, -⟩ := hedge
  unfold State.stopOrder
  dsimp only
  rw [if_neg (by simp [hb]), if_neg (by simp [hm]), if_pos h]
  exact congrArg (fun b => s.setTrc { s.trc.ordered with
    motion := .parked, braking := b, homing := none, brakesLeft := 0, interval := 0 }) hb.symm

/-- A carriage that can step brakes for the steps that its motion takes (R130). -/
theorem State.brake_steps {s : State} {n : Nat} (hc : s.trc.canStep s.trc.dir = true) (hn : s.trc.brakeSteps = n)
    (h : 0 < n) : s.brake = s.setTrc { s.trc with
      braking := true
      ramp := none
      hold := false
      holdDone := false
      target := none
      current := .s0
      brakesLeft := n
      interval := 2 * s.trc.interval } := by
  unfold State.brake
  dsimp only
  rw [hc, hn]
  exact if_pos (by simp [h])

/-- A stop order to a MOVE or a HOME: the carriage brakes for three steps (R130). -/
theorem State.stopOrder_brakes {s : State} (hb : s.trc.braking = false)
    (hm : s.trc.motion = .moving ∨ s.trc.motion = .homing ∧ s.edgeWaits = false)
    (hp : s.trc.valid = false ∨ s.trc.dir = .forward ∧ s.trc.position.toNat < 65535 ∨
      s.trc.dir = .backward ∧ 0 < s.trc.position.toNat) :
    s.stopOrder = s.setTrc { s.trc.ordered with
      braking := true
      brakesLeft := 3
      interval := 2 * s.trc.interval } := by
  have hnot : s.trc.motion ≠ .parked ∧ s.edgeWaits = false ∧ s.trc.graded = false := by
    rcases hm with h | ⟨h, he⟩
    · simp [State.edgeWaits, State.seeksEdge, Trc.graded, h]
    · simp [Trc.graded, h, he]
  obtain ⟨hm, he, hg⟩ := hnot
  have hcan : s.trc.canStep s.trc.dir = true := by
    unfold Trc.canStep
    rcases hp with h | ⟨h, h'⟩ | ⟨h, h'⟩
    · simp [h]
    · simp [h, h', Config.maxHalf]
    · simp [h, h']
  have hsteps : s.trc.brakeSteps = 3 := if_neg (by simp [hg])
  unfold State.stopOrder
  dsimp only
  rw [if_neg (by simp [hb]), if_neg hm, if_neg (by simp [he]),
    State.brake_steps (by exact hcan) (by exact hsteps) (by decide)]
  rfl

/-! ## STOPPING -/

/-- In STOPPING with nothing to offer, only the stop event is waited for (R160). -/
theorem State.stopping_settles {s t : State} (hs : s.settleStep = none) (ho : t.scn.op = .stopping)
    (hre : t.reactive = s.reactive) : t.settleStep = if t.stoppingEnds then some (t.setOp .idle) else none := by
  obtain ⟨-, -, -, h4, -⟩ := State.settleStep_none_iff.mp hs
  obtain ⟨h1, h2⟩ := State.due_settles hs (t := t) hre
  have h3 : t.drainCheck = none := State.drainCheck_none (.inl (by simp [ho]))
  simp only [State.reactive, Reactive.mk.injEq] at hre
  obtain ⟨hc, hf, -, -, -, -, -, he, hw, hq⟩ := hre
  have h5 := (State.offering_eq hw (State.hasReport_eq hc hf he hq)).trans h4
  unfold State.settleStep
  rw [h1, h2, h3, h5]

/-- A stop that has come, with nothing due: IDLE, and that is all (R160). -/
theorem State.stopping_idle {s t : State} (hs : s.settleStep = none) (ho : t.scn.op = .stopping)
    (hre : t.reactive = s.reactive) (ht : t.trc.standing = true) (hdue : .scanEnd ∉ t.scn.due)
    (hr : t.cap.report = none) : t.settleStep = some (t.setOp .idle) ∧ (t.setOp .idle).settleStep = none := by
  constructor
  · rw [State.stopping_settles hs ho hre]
    exact if_pos (by simp [State.stoppingEnds, ho, ht, hdue, hr])
  · rw [State.setOp_form _ (by decide)]
    exact State.settled_of_reactive hs hre rfl

/-- A stop that has not come is waited for (R160). -/
theorem State.stopping_waits {s t : State} (hs : s.settleStep = none) (ho : t.scn.op = .stopping)
    (hre : t.reactive = s.reactive) (hb : t.trc.braking = true) : t.settleStep = none := by
  rw [State.stopping_settles hs ho hre]
  exact if_neg (by simp [State.stoppingEnds, Trc.standing, hb])

/-! ## ABORT -/

/-- ABORT outside a scan is answered with the operation state that results, once the device has settled (R156). -/
theorem Ready.aborted {s u : State} (h : Ready s) (tag : Byte)
    (hu : ((s.atDispatch ⟨0x04#8, tag, []⟩).abortNow.settle) = u.atDispatch ⟨0x04#8, tag, []⟩)
    (hp : u.lif.resetPending = s.lif.resetPending) :
    ∃ t, exec (.abort tag []) s = .next t ∧ Replied u t ⟨0x84#8, tag, [0#8, u.scn.op.code]⟩ := by
  refine ⟨_, rfl, h.taken (k := .abort) (by simp) ?_ rfl ?_ (hp.trans h.noReset)⟩
  · exact refusesNow_eq_false (by cases s.scn.op <;> rfl) (.inl rfl)
  · show State.actAbort _ = _
    unfold State.actAbort
    dsimp only
    rw [show (Kind.abort).code = 0x04#8 from rfl, hu]
    rfl

/-- ABORT of a MOVE or a HOME whose carriage brakes: STOPPING goes on while it does (R156, R160). -/
theorem State.abort_brakes {s : State} {brakes : Trc} (hs : s.settleStep = none) (ho : s.scn.op = .positioning)
    (hc : s.cap.cal = none) (hstop : s.stopOrder = s.setTrc brakes) (hb : brakes.braking = true) :
    s.abortNow.settle = ((s.setScn { s.scn with op := .stopping }).setNtu { s.ntu with
      haltedCond := false }).setTrc brakes := by
  have habort : s.abortNow = ((s.setScn { s.scn with op := .stopping }).setNtu { s.ntu with
      haltedCond := false }).setTrc brakes := by
    unfold State.abortNow
    rw [ho]
    dsimp only
    rw [show s.endCalRun .aborted = s from if_neg (by simp [hc]), hstop, State.setOp_form _ (by decide)]
    rfl
  rw [habort]
  exact State.settle_of_settled (State.stopping_waits hs rfl rfl hb)

/-- A calibration run, or its move, that ABORT ends (R8, R13). -/
theorem State.abortNow_cal {s : State} {run : CalRun} {x : Trc}
    (ho : s.scn.op = .positioning ∨ s.scn.op = .calibrating) (hc : s.cap.cal = some run)
    (hstop : ∀ c, (s.setCap c).stopOrder = (s.setCap c).setTrc x) :
    s.abortNow = (((s.setScn { s.scn with op := .stopping }).setNtu { s.ntu with
      haltedCond := false }).setTrc x).setCap (s.cap.endRun .aborted) := by
  have habort : s.abortNow = ((s.endCalRun .aborted).stopOrder).setOp .stopping := by
    unfold State.abortNow
    rcases ho with h | h <;> rw [h]
  rw [habort, show s.endCalRun .aborted = s.setCap (s.cap.endRun .aborted) from if_pos (by simp [hc]), hstop,
    State.setOp_form _ (by decide)]
  rfl

/-- The CAL_DONE of an aborted run is placed at once where the queue is open (R13, R173). -/
theorem State.abort_placesCal {s u : State} {run : CalRun} (hs : s.settleStep = none) (hopen : s.reportsOpen = true)
    (hc : s.cap.cal = some run) (hre : u.reactive = s.reactive) (ho : u.scn.op ≠ .draining)
    (hl : u.lif.reports = s.lif.reports) :
    (u.setCap (s.cap.endRun .aborted)).settleStep = some (afterEarlyEnd s run .aborted u) := by
  have hend : (s.cap.endRun .aborted).report = some (run.earlyReport .aborted s.cap.valid) := by
    simp [Cap.endRun, hc, CalRun.earlyReport]
  rw [← afterEarlyEnd_eq]
  refine State.settleStep_early (due := s.scn.due) hs hopen ?_ ho hl hend rfl
  calc (u.setCap (s.cap.endRun .aborted)).reactive
      = { u.reactive with report := (s.cap.endRun .aborted).report.isSome } := rfl
    _ = { s.reactive with due := s.scn.due, report := true } := by rw [hre, hend]; rfl

/-- After its CAL_DONE, an aborted run has nothing due. -/
theorem afterEarlyEnd_reactive {s u : State} {run : CalRun} {outcome : CalOutcome} (hr : s.cap.report = none)
    (hre : u.reactive = s.reactive) : (afterEarlyEnd s run outcome u).reactive = s.reactive :=
  calc (afterEarlyEnd s run outcome u).reactive
      = { u.reactive with report := false } := rfl
    _ = { s.reactive with report := false } := by rw [hre]
    _ = s.reactive := congrArg (fun r : Option CalReport => { s.reactive with report := r.isSome }) hr.symm

/-- ABORT of the move of a calibration run: CAL_DONE is placed, and the carriage brakes on (R8, R156). -/
theorem State.abort_calMove {s : State} {run : CalRun} {brakes : Trc} (hs : s.settleStep = none)
    (ho : s.scn.op = .positioning) (hc : s.cap.cal = some run) (hopen : s.reportsOpen = true)
    (hstop : ∀ c, (s.setCap c).stopOrder = (s.setCap c).setTrc brakes) (hb : brakes.braking = true) :
    s.abortNow.settle = afterEarlyEnd s run .aborted (((s.setScn { s.scn with op := .stopping }).setNtu { s.ntu with
      haltedCond := false }).setTrc brakes) := by
  rw [State.abortNow_cal (.inl ho) hc hstop]
  refine State.settle_one (State.abort_placesCal hs hopen hc rfl OpState.noConfusion rfl) ?_
  exact State.stopping_waits hs rfl (afterEarlyEnd_reactive (State.nothingDue hs hopen).2 rfl) hb

/-- ABORT in CALIBRATING: CAL_DONE is placed, and the device is IDLE (R13, R156). -/
theorem State.abort_cal {s : State} {run : CalRun} (hs : s.settleStep = none) (ho : s.scn.op = .calibrating)
    (hc : s.cap.cal = some run) (hm : s.trc.motion = .parked) (hb : s.trc.braking = false)
    (hopen : s.reportsOpen = true) :
    s.abortNow.settle = afterEarlyEnd s run .aborted (((s.setScn { s.scn with op := .idle }).setNtu { s.ntu with
      haltedCond := false }).setTrc s.trc.ordered) := by
  obtain ⟨hdue, hreport⟩ := State.nothingDue hs hopen
  have hstop (c : Cap) : (s.setCap c).stopOrder = (s.setCap c).setTrc s.trc.ordered :=
    State.stopOrder_stays (s := s.setCap c) (.inr hm)
  rw [State.abortNow_cal (.inr ho) hc hstop]
  have hplaced := State.abort_placesCal (u := ((s.setScn { s.scn with op := .stopping }).setNtu { s.ntu with
    haltedCond := false }).setTrc s.trc.ordered) hs hopen hc rfl OpState.noConfusion rfl
  obtain ⟨h1, h2⟩ := State.stopping_idle hs (t := afterEarlyEnd s run .aborted (((s.setScn { s.scn with
    op := .stopping }).setNtu { s.ntu with haltedCond := false }).setTrc s.trc.ordered)) rfl
    (afterEarlyEnd_reactive hreport rfl) (by simp [afterEarlyEnd, Trc.standing, Trc.ordered, hm, hb])
    (by simp [afterEarlyEnd, hdue]) rfl
  rw [State.settle_two hplaced h1 h2, State.setOp_form _ (by decide)]
  rfl

/-- ABORT of a HOME whose edge waits: the carriage stands, and the device is IDLE (R156). -/
theorem State.abort_edgeWaits {s : State} (hs : s.settleStep = none) (ho : s.scn.op = .positioning)
    (he : s.edgeWaits = true) (hc : s.cap.cal = none) (hdue : .scanEnd ∉ s.scn.due) (hr : s.cap.report = none) :
    s.abortNow.settle = ((s.setScn { s.scn with op := .idle }).setNtu { s.ntu with
      haltedCond := false }).setTrc { s.trc.ordered with
        motion := .parked
        homing := none
        brakesLeft := 0
        interval := 0 } := by
  have habort : s.abortNow = ((s.setScn { s.scn with op := .stopping }).setNtu { s.ntu with
      haltedCond := false }).setTrc { s.trc.ordered with
        motion := .parked
        homing := none
        brakesLeft := 0
        interval := 0 } := by
    unfold State.abortNow
    rw [ho]
    dsimp only
    rw [show s.endCalRun .aborted = s from if_neg (by simp [hc]), State.stopOrder_edgeWaits he,
      State.setOp_form _ (by decide)]
    rfl
  have hb : s.trc.braking = false := by
    simp only [State.edgeWaits, State.seeksEdge, Bool.and_eq_true, Bool.not_eq_true', decide_eq_true_eq] at he
    obtain ⟨⟨⟨-, hb⟩, -⟩, -⟩ := he
    exact hb
  rw [habort]
  obtain ⟨h1, h2⟩ := State.stopping_idle hs (t := ((s.setScn { s.scn with op := .stopping }).setNtu { s.ntu with
    haltedCond := false }).setTrc { s.trc.ordered with
      motion := .parked
      homing := none
      brakesLeft := 0
      interval := 0 }) rfl rfl (by simp [Trc.standing, Trc.ordered, hb]) hdue hr
  rw [State.settle_one h1 h2, State.setOp_form _ (by decide)]
  rfl

/-- Settles O38: by operation state. -/
theorem abortOutsideAScan : Obligations.AbortOutsideAScan := by
  intro tag s stopped hr hs hstopped
  have hstopped : stopped = s.trc.ordered := hstopped
  subst hstopped
  generalize hd : s.atDispatch ⟨0x04#8, tag, []⟩ = d
  have hs' : d.settleStep = none := by
    rw [← hd]
    exact State.settled_of_still hs rfl rfl rfl
  have unchanged (h : d.abortNow = d) : ∃ t, exec (.abort tag []) s = .next t ∧
      Replied s t ⟨0x84#8, tag, [0#8, s.scn.op.code]⟩ :=
    hr.aborted tag (by rw [hd, h, State.settle_of_settled hs']) rfl
  refine ⟨fun ho => ?idle, fun ho => ?stopping, fun ho he => ?draining, fun ho => ?faulted,
    fun ho brakes braked hbrakes hbraked => ?positioning, fun ho he hc hdue hrep => ?edge,
    fun run ho hc hm hb hopen => ?calibrating⟩
  case idle =>
    have := unchanged (by rw [← hd]; simp [State.abortNow, ho])
    rwa [ho] at this
  case stopping =>
    have := unchanged (by rw [← hd]; simp [State.abortNow, ho])
    rwa [ho] at this
  case draining =>
    have := unchanged (by rw [← hd]; simp [State.abortNow, ho, he])
    rwa [ho] at this
  case faulted =>
    refine hr.aborted tag (u := (s.setScn { s.scn with op := .idle }).setNtu { s.ntu with haltedCond := false }) ?_ rfl
    have habort : d.abortNow = (d.setScn { d.scn with op := .idle }).setNtu { d.ntu with haltedCond := false } := by
      rw [← State.setOp_form _ (by decide), ← hd]
      simp [State.abortNow, ho]
    rw [hd, habort, State.settle_of_settled (State.settled_of_reactive hs' (by rfl) rfl), ← hd]
    rfl
  case positioning =>
    have hstop (c : Cap) : (d.setCap c).stopOrder = (d.setCap c).setTrc brakes ∧ brakes.braking = true := by
      rw [← hd]
      rcases hbrakes with ⟨hb, rfl⟩ | ⟨hb, hm, hp, rfl⟩
      · exact ⟨State.stopOrder_stays (s := (s.atDispatch _).setCap c) (.inl hb), hb⟩
      · exact ⟨State.stopOrder_brakes (s := (s.atDispatch _).setCap c) hb hm hp, rfl⟩
    have hb := (hstop d.cap).2
    subst hbraked
    refine ⟨fun hc => ?_, fun run hc hopen => ?_⟩
    · refine hr.aborted tag (u := State.setTrc _ brakes) ?_ rfl
      rw [hd, State.abort_brakes hs' (by rw [← hd]; exact ho) (by rw [← hd]; exact hc) (hstop d.cap).1 hb, ← hd]
      rfl
    · refine hr.aborted tag (u := afterEarlyEnd s run .aborted _) ?_ rfl
      rw [hd, State.abort_calMove hs' (by rw [← hd]; exact ho) (by rw [← hd]; exact hc) (by rw [← hd]; exact hopen)
        (fun c => (hstop c).1) hb, ← hd]
      rfl
  case edge =>
    refine hr.aborted tag (u := State.setTrc _ _) ?_ rfl
    rw [hd, State.abort_edgeWaits hs' (by rw [← hd]; exact ho) (by rw [← hd]; exact he) (by rw [← hd]; exact hc)
      (by rw [← hd]; exact hdue) (by rw [← hd]; exact hrep), ← hd]
    rfl
  case calibrating =>
    refine hr.aborted tag (u := afterEarlyEnd s run .aborted _) ?_ rfl
    rw [hd, State.abort_cal hs' (by rw [← hd]; exact ho) (by rw [← hd]; exact hc) (by rw [← hd]; exact hm)
      (by rw [← hd]; exact hb) (by rw [← hd]; exact hopen), ← hd]
    rfl

end Sys2Proof.Machine

/-! PROOF. Release of the ring's oldest lines (R25 to R31). -/

namespace Sys2Proof.Machine

open Sys2Proof

/-! ## What may leave the ring -/

/-- An output frame is one that is not rejected, or that is passed (R49). -/
theorem Probed.isOutput_iff (p : Probed) : p.isOutput = true ↔ p.rejected = false ∨ p.passed = true := by
  simp [Probed.isOutput]

/-- A frame does not need a line: the three states apart (R26). -/
theorem Frame.needs_eq_false (f : Frame) (line : Nat) : f.needs line = false ↔
    (f.probed = none → line < f.top - f.profile.mt) ∧
    (∀ p, f.probed = some p → f.closed = none → p.rejected = false ∨ p.passed = true → line < p.nextRow) ∧
    ∀ p c, f.probed = some p → f.closed = some c → p.rejected = false ∨ p.passed = true →
      line < p.nextRow ∨ c.lastRow < line := by
  unfold Frame.needs
  cases hp : f.probed with
  | none =>
    simp [Frame.firstRow]
    omega
  | some p =>
    simp only [← Probed.isOutput_iff]
    cases hc : f.closed with
    | none => cases p.isOutput <;> simp
    | some c =>
      rw [Bool.and_eq_false_iff, Bool.and_eq_false_iff, decide_eq_false_iff_not, decide_eq_false_iff_not, Nat.not_le,
        Nat.not_le]
      cases hq : p.isOutput with
      | false => simp [hq]
      | true => simp [hq]

/-- A region's window does not contain a line (R27). -/
theorem Region.windowHas_eq_false (u : Setup) (r : Region) (line : Nat) : r.windowHas u line = false ↔
    line < r.first - u.d - 16 ∨ min (u.n - 1) (r.last + u.d + 16) < line := by
  unfold Region.windowHas
  rw [Bool.and_eq_false_iff, decide_eq_false_iff_not, decide_eq_false_iff_not, Nat.not_le, Nat.not_le]
  rfl

/-- The holdback allows a line: it is lifted, or 48 lines are newer (R25). -/
theorem State.holdbackAllows_iff (s : State) (line : Nat) : s.holdbackAllows line = true ↔
    s.scn.op = .draining ∨
      s.scn.op = .scanning ∧ ∃ newest, s.rng.lines.getLast? = some newest ∧ line + 48 ≤ newest.number := by
  unfold State.holdbackAllows State.newest
  rw [Bool.or_eq_true, Bool.and_eq_true, decide_eq_true_eq, decide_eq_true_eq, decide_eq_true_eq]
  cases s.rng.lines.getLast? with
  | none => simp [Config.holdback]
  | some l => simp [Config.holdback]

/-- The three conditions of release, as the rules state them (R25 to R28). -/
theorem State.releasable_iff (s : State) (line : Nat) : s.releasable line = true ↔ MayLeave s line := by
  unfold State.releasable
  simp only [Bool.and_eq_true, List.all_eq_true, Bool.not_eq_true', State.holdbackAllows_iff,
    Frame.needs_eq_false, Region.windowHas_eq_false]
  constructor
  · rintro ⟨⟨holdback, frames⟩, regions⟩
    exact ⟨holdback, fun f hf => (frames f hf).1, fun f hf => (frames f hf).2.1, fun f hf => (frames f hf).2.2, regions⟩
  · rintro ⟨holdback, tentative, opened, closed, regions⟩
    exact ⟨⟨holdback, fun f hf => ⟨tentative f hf, opened f hf, closed f hf⟩⟩, regions⟩

/-! ## Release -/

/-- The lines that an evaluation of release drops (R28). -/
def State.leaving (s : State) : List RingLine := s.rng.lines.takeWhile fun l => s.releasable l.number

theorem State.leaving_append_kept (s : State) : s.leaving ++ s.keptLines = s.rng.lines :=
  List.takeWhile_append_dropWhile

/-- Where lines leave, the first line left is reported (R31). -/
theorem State.ringRelease_firstHeld {s : State} (h : s.leaving ≠ []) :
    s.ringRelease.scn.firstHeld = firstLeft s.rng.lines s.keptLines := by
  have hlen : s.keptLines.length ≠ s.rng.lines.length := by
    have := List.length_pos_iff.mpr h
    rw [← s.leaving_append_kept, List.length_append]
    omega
  have hstill := s.still_ringRelease
  rw [if_neg hlen] at hstill
  exact congrArg (fun x => x.scn.firstHeld) hstill

/-- Where none leaves, an evaluation of release changes nothing (R28). -/
theorem State.ringRelease_none {s : State} (h : s.leaving = []) : s.ringRelease = s := by
  have hkept : s.keptLines = s.rng.lines := by
    rw [← s.leaving_append_kept, h, List.nil_append]
  exact if_pos (by rw [hkept])

/-- An evaluation of release drops the oldest lines that may leave, up to the first that may not, and reports the
first line left (R28, R31). -/
theorem State.ringRelease_drops (s : State) : ∃ k, s.ringRelease.rng.lines = s.rng.lines.drop k ∧
    k ≤ s.rng.lines.length ∧ (∀ l ∈ s.rng.lines.take k, MayLeave s l.number) ∧
    (∀ l, s.rng.lines[k]? = some l → ¬MayLeave s l.number ∧
      (0 < k → s.ringRelease.scn.firstHeld = l.number)) ∧
    (∀ l, 0 < k → k = s.rng.lines.length → s.rng.lines.getLast? = some l →
      s.ringRelease.scn.firstHeld = l.number + 1) ∧
    (k = 0 → s.ringRelease = s) := by
  have hsplit := s.leaving_append_kept
  refine ⟨s.leaving.length, ?_, ?_, ?_, ?_, ?_, ?_⟩
  · rw [State.ringRelease_lines, ← hsplit, List.drop_left]
  · rw [← hsplit, List.length_append]
    omega
  · intro l hl
    rw [← hsplit, List.take_left] at hl
    exact (s.releasable_iff l.number).mp (List.mem_takeWhile_imp (p := fun l : RingLine => s.releasable l.number) hl)
  · intro l hl
    rw [← hsplit, List.getElem?_append_right (Nat.le_refl _), Nat.sub_self, ← List.head?_eq_getElem?] at hl
    refine ⟨fun hm => ?_, fun hk => ?_⟩
    · have := List.head?_dropWhile_not (fun l : RingLine => s.releasable l.number) s.rng.lines
      rw [show (s.rng.lines.dropWhile fun l => s.releasable l.number).head? = some l from hl] at this
      exact Bool.false_ne_true (this.symm.trans ((s.releasable_iff l.number).mpr hm))
    · rw [State.ringRelease_firstHeld (List.length_pos_iff.mp hk), firstLeft, hl]
  · intro l hk hlen hl
    have hkept : s.keptLines = [] := by
      rw [← hsplit, List.length_append] at hlen
      exact List.length_eq_zero_iff.mp (by omega)
    rw [State.ringRelease_firstHeld (List.length_pos_iff.mp hk), firstLeft, hkept, hl]
    rfl
  · intro hk
    exact State.ringRelease_none (List.length_eq_zero_iff.mp hk)

end Sys2Proof.Machine

/-! PROOF. What the handling of a line and the settling after it keep: the completed line in the ring, the counts
and the line capture (R2, R4, R22). -/

namespace Sys2Proof.Machine

open Sys2Proof

/-! ## Motion outside POSITIONING changes the carriage only -/

/-- `t` is `s` with another carriage, whose scan transport is on only if that of `s` is. -/
def State.Carried (s t : State) : Prop := ∃ x, t = s.setTrc x ∧ x.scanOn = s.trc.scanOn

theorem State.Carried.of_eq {s : State} {x : Trc} (h : x.scanOn = s.trc.scanOn) : s.Carried (s.setTrc x) :=
  ⟨x, rfl, h⟩

theorem State.Carried.trans {s t u : State} (h : s.Carried t) (k : t.Carried u) : s.Carried u := by
  obtain ⟨x, rfl, hx⟩ := h
  obtain ⟨y, rfl, hy⟩ := k
  exact ⟨y, rfl, hy.trans hx⟩

theorem State.beginMove_carried {s : State} (h : s.scn.op ≠ .positioning) (n : Nat) : s.Carried (s.beginMove n) := by
  unfold State.beginMove State.moveArrived State.moveComplete
  split
  · rw [if_neg (by exact h)]
    exact .of_eq rfl
  · exact .of_eq rfl

theorem State.beginBacktrack_carried (s : State) : s.Carried s.beginBacktrack := by
  unfold State.beginBacktrack
  dsimp only
  split
  · exact .of_eq rfl
  · exact .of_eq rfl

theorem State.resumeAtRest_carried (s : State) : s.Carried s.resumeAtRest := by
  unfold State.resumeAtRest
  split
  · split
    · exact s.beginBacktrack_carried
    · exact .of_eq rfl
  · exact .of_eq rfl

theorem State.stopEvent_carried {s : State} (h : s.scn.op ≠ .positioning) : s.Carried s.stopEvent := by
  unfold State.stopEvent
  dsimp only
  refine State.Carried.trans (.of_eq (x := { s.trc.parkedNow with queued := none }) rfl) ?_
  split
  · exact .of_eq rfl
  · exact State.beginMove_carried (by exact h) _
  · exact State.resumeAtRest_carried _

theorem State.brake_carried {s : State} (h : s.scn.op ≠ .positioning) : s.Carried s.brake := by
  unfold State.brake
  dsimp only
  split
  · exact .of_eq rfl
  · exact State.Carried.trans (.of_eq rfl) (State.stopEvent_carried (by exact h))

/-! ## Demands -/

/-- A demand acts on the gate, the carriage, the HALTED condition and the notice slot only; it opens no gate and
starts no transport (R135 to R141, R145). -/
def State.Demanded (s t : State) : Prop := ∃ g x n d,
  t = (((s.setCap { s.cap with gateOpen := g }).setTrc x).setNtu n).setLif { s.lif with noticeDue := d } ∧
    (s.cap.gateOpen = false → g = false) ∧ x.scanOn = s.trc.scanOn

theorem State.Carried.demanded {s t : State} (h : s.Carried t) : s.Demanded t := by
  obtain ⟨x, rfl, hx⟩ := h
  exact ⟨s.cap.gateOpen, x, s.ntu, s.lif.noticeDue, rfl, id, hx⟩

theorem State.Demanded.trans {s t u : State} (h : s.Demanded t) (k : t.Demanded u) : s.Demanded u := by
  obtain ⟨g, x, n, d, rfl, hg, hx⟩ := h
  obtain ⟨g', x', n', d', rfl, hg', hx'⟩ := k
  exact ⟨g', x', n', d', rfl, fun e => hg' (hg e), hx'.trans hx⟩

theorem State.halt_demanded {s : State} (h : s.scn.op ≠ .positioning) : s.Demanded s.halt := by
  have shut : s.Demanded ((s.setCap { s.cap with gateOpen := false }).setTrc { s.trc with
      resumeLine := s.cap.nextLine
      resumePos := s.setup.p0 + s.cap.nextLine }) :=
    ⟨false, { s.trc with resumeLine := s.cap.nextLine, resumePos := s.setup.p0 + s.cap.nextLine }, s.ntu,
      s.lif.noticeDue, rfl, fun _ => rfl, rfl⟩
  exact shut.trans (State.brake_carried (by exact h)).demanded

theorem State.regrade_demanded {s : State} (h : s.scn.op ≠ .positioning) (r : Grade) : s.Demanded (s.regrade r) := by
  have carried {x : Trc} (hx : x.scanOn = s.trc.scanOn) : s.Demanded (s.setTrc x) := (State.Carried.of_eq hx).demanded
  unfold State.regrade
  repeat' split
  · exact State.halt_demanded h
  · exact (State.brake_carried h).demanded
  · exact carried (x := s.trc) rfl
  · exact carried rfl
  · exact carried rfl
  · exact carried rfl

theorem State.rehold_carried (s : State) (r : Grade) : s.Carried (s.rehold r) := by
  unfold State.rehold
  split
  · exact .of_eq rfl
  · split
    · exact .of_eq rfl
    · exact .of_eq (x := s.trc) rfl

theorem State.gradeChanged_demanded {s : State} (h : s.scn.op ≠ .positioning) (r : Grade) :
    s.Demanded (s.gradeChanged r) := by
  have stays : s.Demanded s := (State.Carried.of_eq (x := s.trc) rfl).demanded
  unfold State.gradeChanged
  split
  · exact stays
  · split
    · exact (s.rehold_carried r).demanded
    · split
      · exact State.regrade_demanded h r
      · split
        · exact (State.brake_carried h).demanded
        · exact stays

theorem State.post_demanded {s : State} (h : s.scn.op ≠ .positioning) (src : Source) (g : Grade) :
    s.Demanded (s.post src g) := by
  have hkeep : (s.trc.keep src g).scanOn = s.trc.scanOn := by cases src <;> rfl
  have hfirst : s.Demanded (s.setTrc (s.trc.keep src g)).evalHalted :=
    ⟨s.cap.gateOpen, _, _, _, State.evalHalted_form _, id, hkeep⟩
  unfold State.post
  dsimp only
  split
  · exact hfirst
  · exact hfirst.trans (State.gradeChanged_demanded (by rw [State.op_evalHalted]; exact h) _)

/-- The demand that an evaluation of release posts is all that it changes beside the ring and the first line
held (R28, R30, R31). -/
theorem State.ringRelease_demanded {s : State} (h : s.scn.op ≠ .positioning) : ∃ n : Nat,
    ((s.setRng ⟨s.keptLines⟩).setScn { s.scn with firstHeld := n }).Demanded s.ringRelease := by
  unfold State.ringRelease
  dsimp only
  split
  · rename_i hl
    have hkept : s.keptLines = s.rng.lines := s.keptLines_suffix.eq_of_length hl
    have hs : (s.setRng ⟨s.keptLines⟩).setScn { s.scn with firstHeld := s.scn.firstHeld } = s := by rw [hkept]; rfl
    exact ⟨s.scn.firstHeld, hs.symm ▸ (State.Carried.of_eq (x := s.trc) rfl).demanded⟩
  · exact ⟨_, State.post_demanded (by exact h) _ _⟩

/-! ## What a line and the settling after it keep -/

/-- The ring's newest line: its number and its pixels (R21). -/
def State.newestLine (s : State) : Option (Nat × List Pixel) := s.rng.lines.getLast?.map fun l => (l.number, l.pixels)

/-- `t` follows from `s` in the image path: line capture keeps what it holds but for a gate that shuts and a report
that is placed, no transport starts, SCANNING is neither entered nor left, and in SCANNING the newest line stays in
the ring with its pixels (R25). -/
structure State.Follows (s t : State) : Prop where
  cap : ∃ g r, t.cap = { s.cap with gateOpen := g, report := r } ∧ (s.cap.gateOpen = false → g = false)
  off : s.trc.scanOn = false → t.trc.scanOn = false
  captured : t.scn.captured = s.scn.captured
  waits : t.arbiterWaits = s.arbiterWaits
  moves : t.scn.op ≠ .positioning
  scanning : t.scn.op = .scanning ↔ s.scn.op = .scanning
  newest : s.scn.op = .scanning → t.newestLine = s.newestLine

/-- What `Follows` reads of a state, and what a mask leaves of the ring's lines. -/
structure LineView where
  cap : Cap
  scanOn : Bool
  captured : Nat
  waits : Bool
  op : OpState
  lines : List (Nat × List Pixel)

def State.lineView (s : State) : LineView :=
  ⟨s.cap, s.trc.scanOn, s.scn.captured, s.arbiterWaits, s.scn.op, s.rng.lines.map fun l => (l.number, l.pixels)⟩

/-- In SCANNING the newest line is not released: no line is newer (R25). -/
theorem State.keptLines_getLast {s : State} (h : s.scn.op = .scanning) :
    s.keptLines.getLast? = s.rng.lines.getLast? := by
  have hsplit := s.leaving_append_kept
  by_cases hk : s.keptLines = []
  · rw [hk, List.append_nil] at hsplit
    cases hl : s.rng.lines.getLast? with
    | none => rw [hk]; rfl
    | some l =>
      have hmem : l ∈ s.leaving := hsplit ▸ List.mem_of_getLast? hl
      have hmay := (s.releasable_iff l.number).mp
        (List.mem_takeWhile_imp (p := fun l : RingLine => s.releasable l.number) hmem)
      rcases hmay.holdback with hd | ⟨-, newest, hn, hle⟩
      · rw [h] at hd
        cases hd
      · rw [hl] at hn
        cases hn
        omega
  · rw [← hsplit, List.getLast?_append_of_ne_nil _ hk]

namespace State.Follows

variable {s t u : State}

theorem trans (h : s.Follows t) (k : t.Follows u) : s.Follows u := by
  obtain ⟨g, r, e, hg⟩ := h.cap
  obtain ⟨g', r', e', hg'⟩ := k.cap
  constructor
  case cap => exact ⟨g', r', by rw [e', e], fun x => hg' (by rw [e]; exact hg x)⟩
  case off => exact fun x => k.off (h.off x)
  case captured => exact k.captured.trans h.captured
  case waits => exact k.waits.trans h.waits
  case moves => exact k.moves
  case scanning => exact k.scanning.trans h.scanning
  case newest => exact fun x => (k.newest (h.scanning.mpr x)).trans (h.newest x)

theorem of_view (h : s.scn.op ≠ .positioning) (e : t.lineView = s.lineView) : s.Follows t := by
  simp only [State.lineView, LineView.mk.injEq] at e
  obtain ⟨hcap, hon, hcaptured, hwaits, hop, hlines⟩ := e
  constructor
  case cap => exact ⟨s.cap.gateOpen, s.cap.report, hcap, id⟩
  case off => exact fun x => hon.trans x
  case captured => exact hcaptured
  case waits => exact hwaits
  case moves => rw [hop]; exact h
  case scanning => rw [hop]
  case newest =>
    intro _
    unfold State.newestLine
    rw [← List.getLast?_map, ← List.getLast?_map, hlines]

theorem start (h : s.scn.op ≠ .positioning) : s.Follows s := of_view h rfl

theorem of_demanded (h : s.scn.op ≠ .positioning) (k : s.Demanded t) : s.Follows t := by
  obtain ⟨g, x, n, d, rfl, hg, hx⟩ := k
  exact ⟨⟨g, s.cap.report, rfl, hg⟩, fun e => hx.trans e, rfl, rfl, h, Iff.rfl, fun _ => rfl⟩

theorem of_release (h : s.scn.op ≠ .positioning) : s.Follows s.ringRelease := by
  obtain ⟨n, hdemand⟩ := State.ringRelease_demanded h
  have dropped : s.Follows ((s.setRng ⟨s.keptLines⟩).setScn { s.scn with firstHeld := n }) :=
    ⟨⟨s.cap.gateOpen, s.cap.report, rfl, id⟩, id, rfl, rfl, h, Iff.rfl,
      fun hs => congrArg (Option.map fun l : RingLine => (l.number, l.pixels)) (State.keptLines_getLast hs)⟩
  exact dropped.trans (of_demanded (by exact h) hdemand)

theorem same (h : s.Follows t) (e : u.lineView = t.lineView) : s.Follows u := h.trans (of_view h.moves e)

theorem post (h : s.Follows t) (src : Source) (g : Grade) : s.Follows (t.post src g) :=
  h.trans (of_demanded h.moves (State.post_demanded h.moves src g))

theorem release (h : s.Follows t) : s.Follows t.ringRelease := h.trans (of_release h.moves)

end State.Follows

end Sys2Proof.Machine

/-! PROOF. The detectors, the reducer and the settling follow: each keeps what `State.Follows` says. -/

namespace Sys2Proof.Machine

open Sys2Proof

namespace State.Follows

variable {s t u : State}

/-! ## Updates of one block -/

theorem setFrd (h : s.Follows t) (x : Frd) : s.Follows (t.setFrd x) := h.same rfl
theorem setDfd (h : s.Follows t) (x : Dfd) : s.Follows (t.setDfd x) := h.same rfl
theorem setCoe (h : s.Follows t) (x : Coe) : s.Follows (t.setCoe x) := h.same rfl
theorem pushReport (h : s.Follows t) (r : Record) : s.Follows (t.pushReport r) := h.same rfl

theorem setScn (h : s.Follows t) {x : Scn} (h1 : x.op = t.scn.op) (h2 : x.captured = t.scn.captured) :
    s.Follows (t.setScn x) := h.same (by simp only [State.lineView, State.setScn_scn, h1, h2]; rfl)

theorem joinWaitList (h : s.Follows t) (p : Producer) : s.Follows (t.joinWaitList p) := by
  unfold State.joinWaitList
  split
  · exact h
  · exact h.same rfl

theorem raise (h : s.Follows t) (c : Cause) : s.Follows (t.raise c) := h.same (by rw [State.raise_form]; rfl)

theorem offerBy {p : Producer} {place : State → State} (h : s.Follows t) (k : s.Follows (place t)) :
    s.Follows (t.offerBy p place) := by
  unfold State.offerBy
  split
  · exact k
  · exact h.joinWaitList p

/-! ## The Frame Detector -/

theorem freeSliver (h : s.Follows t) (f : Frame) : s.Follows (t.freeSliver f) := by
  unfold State.freeSliver
  extract_lets _ s1 c2
  have h1 : s.Follows s1 := h.setFrd _
  have h2 : s.Follows (s1.setScn { c2 with slivers := c2.slivers + 1 }) := h1.setScn rfl rfl
  exact h2.post _ _

theorem createFrame (h : s.Follows t) (top : Nat) : s.Follows (t.createFrame top) :=
  ((h.setCoe _).setFrd _).post _ _

theorem placeFrameDone (h : s.Follows t) (n : Nat) : s.Follows (t.placeFrameDone n) := by
  unfold State.placeFrameDone
  split
  · exact (((h.pushReport _).setFrd _).post _ _).release
  · exact h

theorem placeFrd (h : s.Follows t) : s.Follows t.placeFrd := by
  unfold State.placeFrd
  split
  · exact h
  · exact (h.pushReport _).setFrd _
  · exact (h.setFrd _).placeFrameDone _

theorem offerFrd (h : s.Follows t) : s.Follows t.offerFrd := h.offerBy h.placeFrd

theorem closeFrame (h : s.Follows t) (f : Frame) (p : Probed) (n : Nat) (r : CloseReason) :
    s.Follows (t.closeFrame f p n r) := by
  unfold State.closeFrame
  dsimp only
  split
  · exact h.setFrd _
  · exact (h.setFrd _).offerFrd

theorem enterGap (h : s.Follows t) (n : Nat) : s.Follows (t.enterGap n) := by
  unfold State.enterGap
  dsimp only
  have hgap := h.setFrd { t.frd with classifier := .gap, imageRun := 0 }
  split
  · exact hgap
  · split
    · exact hgap.freeSliver _
    · split
      · exact hgap
      · exact hgap.closeFrame _ _ _ _

theorem frdInGap (h : s.Follows t) (n : Nat) (c : LineClass) (g : List Nat) : s.Follows (t.frdInGap n c g) := by
  unfold State.frdInGap
  dsimp only
  split
  · split
    · exact (h.setFrd _).createFrame _
    · exact h.setFrd _
  · exact h.setFrd _

theorem frdInImage (h : s.Follows t) (n : Nat) (c : LineClass) (g : List Nat) : s.Follows (t.frdInImage n c g) := by
  unfold State.frdInImage
  extract_lets _ _ _ _ s1
  have hrun : s.Follows s1 := h.setFrd _
  split
  · exact hrun.enterGap n
  · exact hrun

theorem frdProbeStage (h : s.Follows t) (n : Nat) : s.Follows (t.frdProbeStage n) := by
  unfold State.frdProbeStage
  split
  · split
    · unfold State.completeProbe
      extract_lets _ _ s1 c2
      have h1 : s.Follows s1 := h.setFrd _
      have h2 : s.Follows (s1.setScn { c2 with frames := c2.frames + 1 }) := h1.setScn rfl rfl
      exact h2.offerFrd
    · exact h
  · exact h

theorem frdCloseStage (h : s.Follows t) (n : Nat) : s.Follows (t.frdCloseStage n) := by
  unfold State.frdCloseStage
  split
  · split
    · split
      · exact h.freeSliver _
      · exact h
    · split
      · exact h
      · split
        · exact h.closeFrame _ _ _ _
        · split
          · exact ((h.closeFrame _ _ _ _).setFrd _).createFrame _
          · exact h
  · exact h

theorem refreshSettled (h : s.Follows t) : s.Follows t.refreshSettled := by
  unfold State.refreshSettled
  split
  · split
    · exact h.setCoe _
    · exact h
  · exact h

theorem frdLine (h : s.Follows t) (n : Nat) (px : List Pixel) : s.Follows (t.frdLine n px) := by
  unfold State.frdLine
  extract_lets _ win greens mG cls inGap s3 s4 s6
  have h3 : s.Follows s3 := by
    dsimp only [s3]
    cases inGap with
    | gap => exact h.frdInGap _ _ _
    | image => exact h.frdInImage _ _ _
  have h4 : s.Follows s4 := by
    dsimp only [s4]
    split
    · exact h3.setFrd _
    · exact h3
  have h6 : s.Follows s6 := (h4.frdProbeStage n).frdCloseStage n
  exact (h6.setFrd _).refreshSettled

/-! ## The Defect Detector -/

theorem foldl {α : Type} {f : State → α → State} (hf : ∀ {t}, s.Follows t → ∀ x, s.Follows (f t x))
    (l : List α) (h : s.Follows t) : s.Follows (l.foldl f t) := by
  induction l generalizing t with
  | nil => exact h
  | cons x xs ih => exact ih (hf h x)

/-- A mask leaves the number and the pixels of every line alone (R23). -/
theorem maskLine (h : s.Follows t) (j : Nat) : s.Follows (t.maskLine j) := by
  refine h.same ?_
  simp only [State.lineView, State.maskLine, writeMask, State.setDfd_rng, State.setRng_rng, List.map_map]
  refine congrArg (LineView.mk _ _ _ _ _) (List.map_congr_left fun l _ => ?_)
  dsimp only [Function.comp_apply]
  split <;> rfl

theorem endRegion (h : s.Follows t) (r : Region) (f : Tally → Tally) : s.Follows (t.endRegion r f) :=
  (h.setFrd _).setDfd _

theorem keepRegion (h : s.Follows t) (ts : List TestSpan) (r : Region) : s.Follows (t.keepRegion ts r).1 := by
  unfold State.keepRegion
  split
  · exact h.endRegion r _
  · exact h.setDfd _

theorem trackRun {acc : State × List TestSpan} (h : s.Follows acc.1) (n : Nat) (run : Run) :
    s.Follows (State.trackRun n acc run).1 := by
  unfold State.trackRun
  dsimp only
  split
  · split
    · exact h.setDfd _
    · exact (h.setFrd _).raise _
  · exact h.keepRegion _ _
  · exact (h.setDfd _).keepRegion _ _

theorem trackRuns (n : Nat) (runs : List Run) {acc : State × List TestSpan} (h : s.Follows acc.1) :
    s.Follows (runs.foldl (State.trackRun n) acc).1 := by
  induction runs generalizing acc with
  | nil => exact h
  | cons r rs ih => exact ih (h.trackRun n r)

theorem repairTake (h : s.Follows t) : s.Follows t.repairTake := by
  unfold State.repairTake
  split
  · split
    · exact h.same rfl
    · exact h.same rfl
  · exact h

theorem makeReady (h : s.Follows t) (r : Region) : s.Follows (t.makeReady r) := by
  unfold State.makeReady
  split
  · exact State.Follows.repairTake (h.same rfl)
  · exact h.endRegion r _

theorem makeAllReady (h : s.Follows t) (rs : List Region) : s.Follows (t.makeAllReady rs) :=
  (foldl makeReady (byFirst rs) h).post _ _

theorem dfdLast (h : s.Follows t) (n : Nat) : s.Follows (t.dfdLast n) :=
  ((foldl maskLine _ h).setDfd _).makeAllReady _

theorem dfdRuns (h : s.Follows t) (n a b : Nat) (px : List Pixel) : s.Follows (t.dfdRuns n a b px).1 := by
  unfold State.dfdRuns
  dsimp only
  split
  · exact (h.setFrd _).setDfd _
  · exact h.setDfd _

theorem dfdLine (h : s.Follows t) (n a b : Nat) (px : List Pixel) : s.Follows (t.dfdLine n a b px) := by
  unfold State.dfdLine
  extract_lets u s2 s3 _ s4 s5 s6
  have h4 : s.Follows s4 := State.Follows.setDfd (trackRuns n _ (h.dfdRuns n a b px)) _
  have h5 : s.Follows s5 := by
    dsimp only [s5]
    split
    · exact h4.maskLine _
    · exact h4
  have h6 : s.Follows s6 := h5.makeAllReady _
  split
  · exact h6.dfdLast n
  · exact h6

/-! ## The Preview Reducer -/

theorem completePreviewRow (h : s.Follows t) : s.Follows t.completePreviewRow := by
  unfold State.completePreviewRow
  dsimp only
  split
  · exact h.setCoe _
  · exact State.Follows.raise (h.setCoe _) _

theorem previewLine (h : s.Follows t) (px : List Pixel) : s.Follows (t.previewLine px) := by
  unfold State.previewLine
  dsimp only
  split
  · split
    · exact (h.setCoe _).completePreviewRow
    · exact h.setCoe _
  · exact h

theorem previewTail (h : s.Follows t) : s.Follows t.previewTail := by
  unfold State.previewTail
  split
  · split
    · exact h.completePreviewRow
    · exact h
  · exact h.setCoe _

/-! ## Settling -/

theorem coeAdvance (h : s.Follows t) (e : t.coeAdvance = some u) : s.Follows u := by
  unfold State.coeAdvance at e
  repeat' split at e
  all_goals cases e
  · exact (h.setCoe _).refreshSettled
  · exact h.setCoe _
  · exact h.setCoe _

theorem testMarker (h : s.Follows t) (e : t.testMarker = some u) : s.Follows u := by
  unfold State.testMarker at e
  split at e
  · cases e
    exact h.setScn rfl rfl
  · cases e

theorem drainCheck (h : s.Follows t) (e : t.drainCheck = some u) : s.Follows u := by
  have told : s.Follows (t.setScn { t.scn with drain := t.drainNow }) := h.setScn rfl rfl
  unfold State.drainCheck at e
  dsimp only at e
  repeat' split at e
  all_goals cases e
  · exact State.Follows.setScn (told.setCoe _) rfl rfl
  · exact told.setScn rfl rfl
  · exact told.setCoe _
  · exact told

/-- Outside SCANNING the device may become IDLE (R154, R160). -/
theorem setIdle (h : s.Follows t) (ho : t.scn.op ≠ .scanning) : s.Follows (t.setOp .idle) := by
  rw [State.setOp_form _ (by decide)]
  refine h.trans ⟨⟨t.cap.gateOpen, t.cap.report, rfl, id⟩, id, rfl, rfl, OpState.noConfusion, ?_, fun e => absurd e ho⟩
  exact ⟨fun e => OpState.noConfusion e, fun e => absurd e ho⟩

/-- With no run under way, CAL_DONE leaves nothing but itself (R13). -/
theorem placeCal (h : s.Follows t) (hc : s.cap.cal = none) : s.Follows t.placeCal := by
  have hcal : t.cap.cal = none := by
    obtain ⟨g, r, e, -⟩ := h.cap
    rw [e]
    exact hc
  cases hr : t.cap.report with
  | none =>
    unfold State.placeCal
    rw [hr]
    exact h
  | some r =>
    rw [State.placeCal_early hr hcal]
    exact h.trans ⟨⟨t.cap.gateOpen, none, rfl, id⟩, id, rfl, rfl, h.moves, Iff.rfl, fun _ => rfl⟩

theorem placeCoe (h : s.Follows t) : s.Follows t.placeCoe := by
  unfold State.placeCoe
  split
  · exact (h.setCoe _).placeFrameDone _
  · exact h.setCoe _

theorem placeScn (h : s.Follows t) : s.Follows t.placeScn := by
  unfold State.placeScn
  split
  · exact h
  · split
    · exact (h.pushReport _).setScn rfl rfl
    · exact h.setScn rfl rfl
  · exact (h.pushReport _).setScn rfl rfl
  · dsimp only
    split
    · rename_i rest _ hd
      exact setIdle (State.Follows.setScn (h.pushReport _) rfl rfl) (by simp [State.pushReport, hd])
    · exact (h.pushReport _).setScn rfl rfl

theorem offer (h : s.Follows t) (hc : s.cap.cal = none) (p : Producer) : s.Follows (t.offer p) := by
  refine h.offerBy ?_
  cases p with
  | cap => exact h.placeCal hc
  | frd => exact h.placeFrd
  | coe => exact h.placeCoe
  | scn => exact h.placeScn

/-- Every reaction of the device follows (R154, R160, R162, R173). -/
theorem settle (h : s.Follows t) (hc : s.cap.cal = none) : s.Follows t.settle := by
  refine State.settle_induct (P := s.Follows) (fun a b ha hb => ?_) h
  rcases State.settleStep_cases hb with e | e | e | ⟨p, -, rfl⟩ | ⟨e, rfl⟩
  · exact ha.coeAdvance e
  · exact ha.testMarker e
  · exact ha.drainCheck e
  · exact ha.offer hc p
  · refine ha.setIdle fun k => ?_
    simp [State.stoppingEnds, k] at e

/-- While the arbiter waits, the end of a row follows as well (R175). -/
theorem finish (h : s.Follows t) (hc : s.cap.cal = none) (hw : s.arbiterWaits = true) : s.Follows t.finish := by
  have settled := h.settle hc
  unfold State.finish
  rw [State.arbitrate_waits (settled.waits.trans hw)]
  exact settled

end State.Follows

end Sys2Proof.Machine

/-! PROOF. Pixels fill the line in flight, and a completed line of a scan stands in the ring (O49). -/

namespace Sys2Proof.Machine

open Sys2Proof

/-! ## The stages of a completed line -/

/-- The counts at a completed line: the last one shuts the gate (R4). -/
def State.countLine (s : State) : State :=
  (s.setCap { s.cap with
    remaining := s.cap.remaining - 1
    gateOpen := s.cap.gateOpen && decide (s.cap.remaining - 1 ≠ 0) }).setScn { s.scn with
      captured := s.scn.captured + 1 }

/-- A line is offered to the detectors, in either order, and to the reducer; release is evaluated (R28, R61). -/
def State.offerLine (s : State) (dfdFirst : Bool) (n : Nat) (px : List Pixel) : State :=
  ((if dfdFirst then (s.dfdLine n s.frd.baseR s.frd.baseIR px).frdLine n px
    else (s.frdLine n px).dfdLine n s.frd.baseR s.frd.baseIR px).previewLine px).ringRelease

/-- A completed line of a scan: appended, counted, offered; the last one begins the drain (R4, R22, R153). -/
theorem State.scanLine_eq {s offered : State} {d : Bool} {n : Nat} {raw line : List Pixel}
    (hline : line = s.cap.correctLine 0 raw)
    (hoffered : offered = (s.ringAppend n line).countLine.ringRelease.offerLine d n line) :
    s.scanLine d n raw =
      if (s.ringAppend n line).cap.remaining - 1 = 0 then offered.drainStart else offered := by
  subst hline hoffered
  rfl

theorem State.Follows.offerLine {s t : State} (h : s.Follows t) (d : Bool) (n : Nat) (px : List Pixel) :
    s.Follows (t.offerLine d n px) := by
  unfold State.offerLine
  cases d with
  | false => exact (((h.frdLine n px).dfdLine n _ _ px).previewLine px).release
  | true => exact (((h.dfdLine n _ _ px).frdLine n px).previewLine px).release

/-- The pixels that complete the line in flight of a scan (R2, R6). -/
theorem State.pixelsArrive_scan {s : State} {f : Flight} {px : List Pixel} (ho : s.scn.op = .scanning)
    (hf : s.cap.inFlight = some f) (hl : s.scn.setup.w ≤ f.received.length + px.length) (d : Bool) :
    s.pixelsArrive d px = (s.setCap s.cap.landed).scanLine d f.number ((f.received ++ px).take s.scn.setup.w) := by
  unfold State.pixelsArrive
  rw [show s.cap.takePixels s.setup.w px = _ from Cap.takePixels_full hf hl]
  exact if_pos ho

/-- The ring's entry of a line that has just landed (R22). -/
theorem State.ringAppend_demanded {s : State} (h : s.scn.op ≠ .positioning) (n : Nat) (px : List Pixel) :
    (s.setRng ⟨s.rng.lines ++ [⟨n, px, List.replicate px.length false, false⟩]⟩).Demanded (s.ringAppend n px) :=
  State.post_demanded (by exact h) _ _

/-- The entry of a line with the demand of the occupancy that it makes (R22, R30). -/
theorem State.ringAppend_eq (s : State) (n : Nat) (px : List Pixel) : s.ringAppend n px =
    (s.setRng ⟨s.rng.lines ++ [⟨n, px, List.replicate px.length false, false⟩]⟩).post .ring
      (if s.rng.lines.length < 95 then .s3 else if s.rng.lines.length < 111 then .s2
        else if s.rng.lines.length < 127 then .s1 else .s0) := by
  unfold State.ringAppend State.occupancy ringGrade
  simp only [State.setRng_rng, List.length_append, List.length_singleton, Nat.add_one_le_iff]

/-- A line that completes, appended and counted: it is the newest one, and the counts follow (R4, R22). -/
theorem State.countLine_appended {s : State} (ho : s.scn.op = .scanning) (n : Nat) (px : List Pixel) :
    (∃ g, (s.ringAppend n px).countLine.cap = { s.cap with
      remaining := s.cap.remaining - 1
      gateOpen := g && decide (s.cap.remaining - 1 ≠ 0) }) ∧
    (s.ringAppend n px).countLine.scn.captured = s.scn.captured + 1 ∧
    (s.ringAppend n px).countLine.scn.op = .scanning ∧
    (s.ringAppend n px).countLine.arbiterWaits = s.arbiterWaits ∧
    (s.ringAppend n px).countLine.newestLine = some (n, px) := by
  obtain ⟨g, x, m, d, e, -⟩ := State.ringAppend_demanded (s := s) (by simp [ho]) n px
  rw [e]
  exact ⟨⟨g, rfl⟩, rfl, ho, rfl, by simp [State.newestLine, State.countLine]⟩

/-- The entry into DRAINING: the carriage is ordered to park, and the holdback is lifted; release and the preview
tail follow (R153). -/
theorem State.drainStart_parks (s : State) : ∃ parks : State, s.drainStart = parks.ringRelease.previewTail ∧
    parks.scn = { s.scn with op := .draining } ∧ (∀ n, parks.holdbackAllows n = true) ∧
    parks.trc.scanOn = false ∧ parks.trc.current = .s0 ∧ (parks.trc.braking = true ∨ parks.trc.motion = .parked) ∧
    parks.cap = s.cap ∧ parks.rng = s.rng ∧ parks.frd = s.frd ∧ parks.dfd = s.dfd ∧ parks.rpe = s.rpe ∧
    parks.coe = s.coe ∧ parks.arbiterWaits = s.arbiterWaits := by
  obtain ⟨x, e, hx⟩ := State.stopOrder_changes (s.setOp .draining)
  obtain ⟨hon, -, -, -, hcurrent⟩ := hx.off
  refine ⟨(s.setOp .draining).stopOrder, rfl, ?_⟩
  rw [e, State.setOp_form _ (by decide)]
  exact ⟨rfl, fun n => (State.holdbackAllows_iff _ n).mpr (.inl rfl), hon, hcurrent, hx.brakes, rfl, rfl, rfl, rfl, rfl,
    rfl, rfl⟩

theorem Cap.correctLine_landed (c : Cap) (x : Nat) (raw : List Pixel) :
    c.landed.correctLine x raw = c.correctLine x raw := by
  induction raw generalizing x with
  | nil => rfl
  | cons p ps ih =>
    unfold Cap.correctLine
    rw [ih]
    rfl

/-- The row of a completed line of a scan: the stages up to the last release, then the end of the row, or the drain
(R4, R22, R153). -/
theorem State.lineComplete_scan {s : State} {f : Flight} {px line : List Pixel} {d : Bool} {offered : State}
    (ho : s.scn.op = .scanning) (hf : s.cap.inFlight = some f) (hl : s.scn.setup.w ≤ f.received.length + px.length)
    (hline : line = s.cap.correctLine 0 ((f.received ++ px).take s.scn.setup.w))
    (hoffered : offered = ((s.setCap s.cap.landed).ringAppend f.number line).countLine.ringRelease.offerLine d
      f.number line) :
    exec (.lineComplete d px) s =
      .next (if s.cap.remaining - 1 = 0 then offered.drainStart else offered).finish := by
  have hleft : ((s.setCap s.cap.landed).ringAppend f.number line).cap.remaining = s.cap.remaining := by
    obtain ⟨g, x, m, n, e, -⟩ := State.ringAppend_demanded (s := s.setCap s.cap.landed) (by simp [ho]) f.number line
    rw [e]
    rfl
  have hrow : exec (.lineComplete d px) s = .next (s.pixelsArrive d px).finish := rfl
  rw [hrow, State.pixelsArrive_scan ho hf hl,
    State.scanLine_eq (hline.trans (Cap.correctLine_landed s.cap 0 _).symm) hoffered]
  simp only [hleft]

/-- From an appended and counted line on, line capture changes only as its gate shuts and as a report is placed
(R2, R4, R22). -/
theorem State.countLine_keeps {s C t : State} (ho : s.scn.op = .scanning) {n : Nat} {line : List Pixel}
    (hc : ((s.setCap s.cap.landed).ringAppend n line).countLine = C)
    (hcap : ∃ g r, t.cap = { C.cap with gateOpen := g, report := r } ∧ (C.cap.gateOpen = false → g = false))
    (hcaptured : t.scn.captured = C.scn.captured) :
    t.cap.inFlight = none ∧ t.cap.watchdog = false ∧ t.cap.nextLine = s.cap.nextLine ∧
      t.cap.remaining = s.cap.remaining - 1 ∧ t.scn.captured = s.scn.captured + 1 := by
  obtain ⟨⟨g, h1⟩, h2, -⟩ := State.countLine_appended (s := s.setCap s.cap.landed) ho n line
  obtain ⟨g', r, ht, -⟩ := hcap
  rw [hcaptured, ht, ← hc, h1, h2]
  exact ⟨rfl, rfl, rfl, rfl, rfl⟩

/-- The last line of a scan: the drain has begun once the row is over (R4, R153). -/
theorem State.drainStart_keeps {C O : State} (h : C.Follows O) (hcal : C.cap.cal = none) (hw : C.arbiterWaits = true) :
    (∃ g r, O.drainStart.finish.cap = { C.cap with gateOpen := g, report := r } ∧
        (C.cap.gateOpen = false → g = false)) ∧
      O.drainStart.finish.scn.captured = C.scn.captured ∧ O.drainStart.finish.trc.scanOn = false ∧
      O.drainStart.finish.scn.op ≠ .scanning := by
  obtain ⟨parks, e, hscn, -, hon, -, -, hcap, -, -, -, -, -, hwaits⟩ := O.drainStart_parks
  obtain ⟨g, r, hO, hg⟩ := h.cap
  have hop : parks.scn.op = .draining := by rw [hscn]
  have hpark : parks.Follows O.drainStart.finish := by
    rw [e]
    exact (State.Follows.start (by simp [hop])).release.previewTail.finish (by rw [hcap, hO]; exact hcal)
      (by rw [hwaits, h.waits, hw])
  obtain ⟨g', r', ht, hg'⟩ := hpark.cap
  refine ⟨⟨g', r', by rw [ht, hcap, hO], fun k => hg' ?_⟩, ?_, hpark.off hon, fun k => ?_⟩
  · rw [hcap, hO]
    exact hg k
  · rw [hpark.captured, hscn]
    exact h.captured
  · have := hpark.scanning.mp k
    rw [hop] at this
    cases this

/-- Settles O49. -/
theorem pixelsFillTheLineInFlight : Obligations.PixelsFillTheLineInFlight := by
  intro d px s
  refine ⟨fun hq hf => ?discarded, fun f hq hp hf hl => ?filled, fun f hw ho hcal hf hl hr => ?kept,
    fun f line appended counted handled offered ho hf hl hline happended hcounted hhandled hoffered => ?stages,
    s.ringRelease_drops⟩
  case discarded =>
    have hpx : s.pixelsArrive d px = s := by
      unfold State.pixelsArrive Cap.takePixels
      rw [hf]
      rfl
    exact congrArg Host.Outcome.next ((congrArg State.finish hpx).trans (State.finish_quiet hq))
  case filled =>
    have hpx : s.pixelsArrive d px = s.setCap { s.cap with inFlight := some ⟨f.number, f.received ++ px⟩ } := by
      have hall : (f.received ++ px).length < s.setup.w := by
        rw [List.length_append]
        exact hl
      unfold State.pixelsArrive Cap.takePixels
      rw [hf]
      dsimp only
      rw [List.take_of_length_le (Nat.le_of_lt hall), if_neg (Nat.not_le.mpr hall)]
    exact congrArg Host.Outcome.next ((congrArg State.finish hpx).trans (State.finish_of_still hq rfl rfl rfl rfl))
  case kept =>
    generalize hline : s.cap.correctLine 0 ((f.received ++ px).take s.scn.setup.w) = line
    generalize hc : ((s.setCap s.cap.landed).ringAppend f.number line).countLine = C
    have hrow := State.lineComplete_scan (d := d) ho hf hl hline.symm rfl
    rw [hc] at hrow
    obtain ⟨⟨g, hcap⟩, -, hop, hwaits, hnewest⟩ :=
      State.countLine_appended (s := s.setCap s.cap.landed) ho f.number line
    rw [hc] at hcap hop hwaits hnewest
    have hcal' : C.cap.cal = none := by rw [hcap]; exact hcal
    have hoffered : C.Follows (C.ringRelease.offerLine d f.number line) :=
      ((State.Follows.start (by simp [hop])).release).offerLine d f.number line
    have hw' : C.arbiterWaits = true := hwaits.trans hw
    by_cases hlast : s.cap.remaining - 1 = 0
    · rw [if_pos hlast] at hrow
      obtain ⟨hkept, hcaptured, hon, hover⟩ := State.drainStart_keeps hoffered hcal' hw'
      obtain ⟨h1, h2, h3, h4, h5⟩ := State.countLine_keeps ho hc hkept hcaptured
      refine ⟨_, hrow, h1, h2, h3, h4, h5, fun _ => ⟨?_, hon, hover⟩, fun h => by omega⟩
      obtain ⟨g', r, ht, hg'⟩ := hkept
      rw [ht]
      exact hg' (by rw [hcap]; simp [hlast, Cap.landed])
    · rw [if_neg hlast] at hrow
      have hkept := hoffered.finish hcal' hw'
      obtain ⟨h1, h2, h3, h4, h5⟩ := State.countLine_keeps ho hc hkept.cap hkept.captured
      refine ⟨_, hrow, h1, h2, h3, h4, h5, fun h => by omega, fun _ => ⟨hkept.scanning.mpr hop, ?_⟩⟩
      have hlatest := (hkept.newest hop).trans hnewest
      obtain ⟨l, hl, he⟩ := Option.map_eq_some_iff.mp hlatest
      exact ⟨l, List.mem_of_getLast? hl, congrArg Prod.fst he, congrArg Prod.snd he⟩
  case stages =>
    have happended' : appended = (s.setCap s.cap.landed).ringAppend f.number line := by
      rw [happended, State.ringAppend_eq]
      rfl
    obtain ⟨g, x, m, n, hform, -⟩ :=
      State.ringAppend_demanded (s := s.setCap s.cap.landed) (by simp [ho]) f.number line
    have hcounted' : counted = appended.countLine.ringRelease := by
      have hremaining : appended.cap.remaining = s.cap.remaining := by rw [happended', hform]; rfl
      have hcaptured : appended.scn.captured = s.scn.captured := by rw [happended', hform]; rfl
      have hdecide : decide (s.cap.remaining - 1 ≠ 0) = decide (2 ≤ s.cap.remaining) := by
        rw [decide_eq_decide]
        omega
      rw [hcounted, State.countLine, hremaining, hcaptured, hdecide]
    have hoffered' : offered = counted.offerLine d f.number line := by
      have hfrd : counted.frd = s.frd := by
        obtain ⟨hkeeps, -⟩ := appended.countLine.ringRelease_keeps
        rw [hcounted', hkeeps, happended', hform]
        rfl
      rw [hoffered, hhandled, State.offerLine, hfrd]
    have hrow := State.lineComplete_scan (d := d) (offered := offered) ho hf hl hline
      (by rw [hoffered', hcounted', happended'])
    refine ⟨fun h => ?_, fun h => ?_⟩
    · rw [hrow, if_neg (by omega)]
    · obtain ⟨parks, e, hscn, hback, hon, hcurrent, hstops, hcap, hrng, hfrd, hdfd, hrpe, hcoe, -⟩ :=
        offered.drainStart_parks
      rw [hrow, if_pos (by omega), e]
      exact ⟨parks, rfl, hscn, hback, hon, hcurrent, hstops, hcap, hrng, hfrd, hdfd, hrpe, hcoe⟩

end Sys2Proof.Machine

/-! PROOF. FORMAT_RULE (O23). -/

namespace Sys2Proof.Machine

open Sys2Proof

/-! ## Format rules and the payload that carries one (R48, R197) -/

theorem FormatRules.get_set (r : FormatRules) (x : FormatRule) {i j : Nat} (hi : i ≤ 3) (hj : j ≤ 3) :
    (r.set x i).get j = if j = i then x else r.get j := by
  interval_cases i <;> interval_cases j <;> rfl

/-- A two-byte field laid out again is the two bytes that it was read from (R195). -/
theorem le16_of_bytes (a b : Byte) : le16 (a.toNat + 256 * b.toNat) = [a, b] := by
  have ha := a.isLt
  have hb := b.isLt
  unfold le16 byte
  congr 1
  · bv_omega
  · congr 1
    bv_omega

theorem flagByte_of_flag {b : Byte} (h : b.toNat ≤ 1) : flagByte (decide (b.toNat = 1)) = b := by
  have hb : b = 0#8 ∨ b = 1#8 := by
    rcases Nat.le_one_iff_eq_zero_or_eq_one.mp h with h | h
    · exact .inl (BitVec.eq_of_toNat_eq h)
    · exact .inr (BitVec.eq_of_toNat_eq h)
  obtain rfl | rfl := hb <;> rfl

/-- The reply to FORMAT_RULE carries the payload back (R198). -/
theorem ruleOf_bytes {p : List Byte} (hl : p.length = 6) (hf : u8 p 1 ≤ 1) : (ruleOf p).bytes (u8 p 0) = p := by
  match p, hl with
  | [index, flag, l0, l1, m0, m1], _ =>
    show [byte index.toNat, flagByte (decide (flag.toNat = 1))] ++ le16 (l0.toNat + 256 * l1.toNat) ++
      le16 (m0.toNat + 256 * m1.toNat) = _
    rw [le16_of_bytes, le16_of_bytes, flagByte_of_flag (b := flag) hf]
    simp [byte]

/-- Settles O23: the reply carries the payload back, and the rules are those of `FormatRules.get_set`. -/
theorem formatRuleReplacesOneRule : Obligations.FormatRuleReplacesOneRule := by
  intro tag p s hr hl hf
  have replied {u : State} {reply : List Byte} (hu : u.lif.resetPending = false)
      (ha : (s.atDispatch ⟨Kind.formatRule.code, tag, p⟩).actFormatRule p =
        ⟨u.atDispatch ⟨Kind.formatRule.code, tag, p⟩, some reply⟩) :
      Replied u (s.commandRow 0x0A#8 tag p) ⟨0x8A#8, tag, reply⟩ :=
    hr.taken (k := .formatRule) (by simp [hl, Config.receiveLimit]) (refusesNow_eq_false rfl (.inl rfl))
      (by simp [Kind.formOk, Kind.length, Kind.choicesOk, flagAt, hl, hf]) ha hu
  refine ⟨s.commandRow 0x0A#8 tag p, rfl, ?_⟩
  by_cases h : u8 p 0 ≤ 3 ∧ u16 p 2 ≤ u16 p 4
  · rw [if_pos h]
    refine ⟨s.frd.rules.set (ruleOf p) (u8 p 0), replied hr.noReset ?_, ?_, fun j hj hne => ?_⟩
    · have hok : ¬(3 < u8 p 0 ∨ (ruleOf p).most < (ruleOf p).least) := by
        rintro (k | k)
        · omega
        · exact absurd h.2 (Nat.not_le.mpr k)
      rw [State.actFormatRule]
      dsimp only
      rw [if_neg hok, ruleOf_bytes hl hf]
      rfl
    · rw [FormatRules.get_set _ _ h.1 h.1, if_pos rfl]
      rfl
    · rw [FormatRules.get_set _ _ h.1 hj, if_neg hne]
  · rw [if_neg h]
    refine replied hr.noReset ?_
    have hbad : 3 < u8 p 0 ∨ (ruleOf p).most < (ruleOf p).least := by
      by_cases hi : u8 p 0 ≤ 3
      · exact .inr (Nat.not_le.mp fun k => h ⟨hi, k⟩)
      · exact .inl (by omega)
    exact if_pos hbad

end Sys2Proof.Machine

/-! PROOF. The Repair Engine: neighbours, new samples, the ring after a repair, and the charge at its end (R56, R90
to R98). -/

namespace Sys2Proof.Machine

open Sys2Proof

/-! ## Neighbours (R92, R93) -/

/-- The distances of the search are 1 to 16. -/
theorem nearest_eq_find? (seek : Nat → Bool) : nearest seek = (List.range' 1 16).find? seek := rfl

theorem nearest_eq_some_iff {seek : Nat → Bool} {d : Nat} : nearest seek = some d ↔
    1 ≤ d ∧ d ≤ 16 ∧ seek d = true ∧ ∀ c, 1 ≤ c → c < d → seek c = false := by
  rw [nearest_eq_find?, List.find?_range'_eq_some]
  simp only [List.mem_range'_1, Bool.not_eq_true']
  constructor
  · rintro ⟨found, range, least⟩
    exact ⟨range.1, by omega, found, least⟩
  · rintro ⟨low, high, found, least⟩
    exact ⟨found, ⟨low, by omega⟩, least⟩

theorem nearest_eq_none_iff {seek : Nat → Bool} :
    nearest seek = none ↔ ∀ d, 1 ≤ d → d ≤ 16 → seek d = false := by
  rw [nearest_eq_find?, List.find?_eq_none]
  simp only [List.mem_range'_1, Bool.not_eq_true, and_imp]
  exact forall₂_congr fun d _ => ⟨fun h k => h (by omega), fun h k => h (by omega)⟩

/-! ## New samples (R94 to R97) -/

section newSample

variable {nb : Neighbours} {left right up down : Nat → Nat} {l r a b : Nat}

theorem newSample_both (h1 : nb.left = some l) (h2 : nb.right = some r) (h3 : nb.up = some a) (h4 : nb.down = some b) :
    newSample nb left right up down =
      some (combine (estimate (left l) l (right r) r) (l + r) (estimate (up a) a (down b) b) (a + b)) := by
  unfold newSample
  rw [h1, h2, h3, h4]

theorem newSample_horizontal (h1 : nb.left = some l) (h2 : nb.right = some r) (h : nb.up = none ∨ nb.down = none) :
    newSample nb left right up down = some (estimate (left l) l (right r) r) := by
  unfold newSample
  rw [h1, h2]
  rcases h with h | h
  · rw [h]
  · rw [h]
    cases nb.up <;> rfl

theorem newSample_vertical (h1 : nb.up = some a) (h2 : nb.down = some b) (h : nb.left = none ∨ nb.right = none) :
    newSample nb left right up down = some (estimate (up a) a (down b) b) := by
  unfold newSample
  rw [h1, h2]
  rcases h with h | h
  · rw [h]
  · rw [h]
    cases nb.left <;> rfl

/-- The sample of a neighbour by its direction, 0 to 3 for left, right, up and down. -/
def sampleOf (left right up down : Nat → Nat) (n : Nat × Nat) : Nat :=
  if n.1 = 0 then left n.2 else if n.1 = 1 then right n.2 else if n.1 = 2 then up n.2 else down n.2

/-- Without a pair the nearest neighbour gives the sample (R96). -/
theorem newSample_nearest (h : nb.left = none ∨ nb.right = none) (k : nb.up = none ∨ nb.down = none) :
    newSample nb left right up down = (nearestOf nb).map (sampleOf left right up down) := by
  obtain ⟨l, r, a, b⟩ := nb
  have hpair : l = none ∨ ∃ x, l = some x ∧ r = none := by
    cases l with
    | none => exact .inl rfl
    | some x => exact .inr ⟨x, rfl, by simpa using h⟩
  have vpair : a = none ∨ ∃ x, a = some x ∧ b = none := by
    cases a with
    | none => exact .inl rfl
    | some x => exact .inr ⟨x, rfl, by simpa using k⟩
  rcases hpair with rfl | ⟨x, rfl, rfl⟩ <;> rcases vpair with rfl | ⟨y, rfl, rfl⟩ <;> rfl

/-- The neighbour of a row without a pair is the nearest one unless one above or below is nearer (R96). -/
theorem nearestOf_horizontal {i d : Nat}
    (h : nb.left = some d ∧ nb.right = none ∧ i = 0 ∨ nb.left = none ∧ nb.right = some d ∧ i = 1)
    (k : nb.up = none ∨ nb.down = none) (hd : ∀ c, nb.up = some c ∨ nb.down = some c → d ≤ c) :
    nearestOf nb = some (i, d) := by
  have pick (j c : Nat) (hc : d ≤ c) : (if c < d then (j, c) else (i, d)) = (i, d) := if_neg (by omega)
  obtain ⟨l, r, a, b⟩ := nb
  dsimp only at h k hd
  rcases h with ⟨rfl, rfl, rfl⟩ | ⟨rfl, rfl, rfl⟩ <;> cases a with
    | none =>
      cases b with
      | none => rfl
      | some c => exact congrArg some (pick 3 c (hd c (.inr rfl)))
    | some c =>
      obtain rfl : b = none := by simpa using k
      exact congrArg some (pick 2 c (hd c (.inl rfl)))

/-- The neighbour of a column without a pair is the nearest one if each to the left or right is farther (R96). -/
theorem nearestOf_vertical {i d : Nat}
    (k : nb.up = some d ∧ nb.down = none ∧ i = 2 ∨ nb.up = none ∧ nb.down = some d ∧ i = 3)
    (h : nb.left = none ∨ nb.right = none) (hd : ∀ c, nb.left = some c ∨ nb.right = some c → d < c) :
    nearestOf nb = some (i, d) := by
  have pick (j c : Nat) (hc : d < c) : (if d < c then (i, d) else (j, c)) = (i, d) := if_pos hc
  obtain ⟨l, r, a, b⟩ := nb
  dsimp only at h k hd
  rcases k with ⟨rfl, rfl, rfl⟩ | ⟨rfl, rfl, rfl⟩ <;> cases l with
    | none =>
      cases r with
      | none => rfl
      | some c => exact congrArg some (pick 1 c (hd c (.inr rfl)))
    | some c =>
      obtain rfl : r = none := by simpa using h
      exact congrArg some (pick 0 c (hd c (.inl rfl)))

theorem nearestOf_isSome (nb : Neighbours) : (nearestOf nb).isSome = nb.present := by
  obtain ⟨l, r, a, b⟩ := nb
  cases l with
  | some => rfl
  | none =>
    cases r with
    | some => rfl
    | none =>
      cases a with
      | some => rfl
      | none => cases b <;> rfl

/-- Whether a pixel gets a new sample depends on its neighbours only, not on what they hold (R97). -/
theorem newSample_isSome : (newSample nb left right up down).isSome = nb.present := by
  by_cases h : nb.left = none ∨ nb.right = none
  · by_cases k : nb.up = none ∨ nb.down = none
    · rw [newSample_nearest h k, Option.isSome_map, nearestOf_isSome]
    · simp only [not_or, ← ne_eq, Option.ne_none_iff_exists'] at k
      obtain ⟨⟨a, ha⟩, b, hb⟩ := k
      rw [newSample_vertical ha hb h]
      simp [Neighbours.present, ha]
  · simp only [not_or, ← ne_eq, Option.ne_none_iff_exists'] at h
    obtain ⟨⟨l, hl⟩, r, hr⟩ := h
    have hpresent : nb.present = true := by simp [Neighbours.present, hl]
    by_cases k : nb.up = none ∨ nb.down = none
    · rw [newSample_horizontal hl hr k, hpresent, Option.isSome_some]
    · simp only [not_or, ← ne_eq, Option.ne_none_iff_exists'] at k
      obtain ⟨⟨a, ha⟩, b, hb⟩ := k
      rw [newSample_both hl hr ha hb, hpresent, Option.isSome_some]

end newSample

/-! ## The pixels of a region (R90, R91, R95 to R98) -/

section repairPixel

variable (u : Setup) (e : Repairing) (lines : List RingLine)

theorem repairPixel_ir (y x : Nat) (p : Pixel) : (repairPixel u e lines y x p).ir = p.ir := by
  unfold repairPixel
  dsimp only
  split <;> rfl

/-- A masked pixel without neighbours keeps its samples (R97). -/
theorem repairPixel_alone {y x : Nat} (p : Pixel) (h : neighbours u e lines x y = ⟨none, none, none, none⟩) :
    repairPixel u e lines y x p = p := by
  unfold repairPixel
  rw [h]
  rfl

/-- Each of R, G and B takes its new sample (R95, R98). -/
theorem repairPixel_sample {y x v : Nat} (p : Pixel) {chan : Pixel → Half} (hc : chan ∈ [(·.r), (·.g), (·.b)])
    (hv : repairedSample lines (neighbours u e lines x y) chan x y = some v) :
    chan (repairPixel u e lines y x p) = half v := by
  have hpresent : (neighbours u e lines x y).present = true := by
    rw [← newSample_isSome, ← repairedSample, hv, Option.isSome_some]
  have sample (c : Pixel → Half) : ∃ w, repairedSample lines (neighbours u e lines x y) c x y = some w :=
    Option.isSome_iff_exists.mp (newSample_isSome.trans hpresent)
  obtain ⟨r, hr⟩ := sample (·.r)
  obtain ⟨g, hg⟩ := sample (·.g)
  obtain ⟨b, hb⟩ := sample (·.b)
  have hnew : repairPixel u e lines y x p = ⟨half r, half g, half b, p.ir⟩ := by
    unfold repairPixel
    dsimp only
    rw [hr, hg, hb]
  rw [hnew]
  simp only [List.mem_cons, List.not_mem_nil, or_false] at hc
  obtain rfl | rfl | rfl := hc
  · exact congrArg half (Option.some.inj (hr.symm.trans hv))
  · exact congrArg half (Option.some.inj (hg.symm.trans hv))
  · exact congrArg half (Option.some.inj (hb.symm.trans hv))

/-- A repair visits each pixel of a line by its column. -/
theorem repairLine_eq_mapIdx (l : RingLine) (x : Nat) (ps : List Pixel) : repairLine u e lines l x ps =
    ps.mapIdx fun i p => if e.visits l (x + i) then repairPixel u e lines l.number (x + i) p else p := by
  induction ps generalizing x with
  | nil => rfl
  | cons p ps ih =>
    rw [repairLine, ih, List.mapIdx_cons]
    simp only [Nat.add_zero, Nat.add_assoc, Nat.add_comm 1]

/-- A pixel is one of those that the repair of a region visits: on a line of the box, in its columns, masked
(R90, R91). -/
def Repairing.takes (e : Repairing) (u : Setup) (l : RingLine) (x : Nat) : Bool := e.boxHas u l.number && e.visits l x

theorem Repairing.takes_iff (l : RingLine) (x : Nat) : e.takes u l x = true ↔
    e.first - u.d ≤ l.number ∧ l.number ≤ min (u.n - 1) (e.last + u.d) ∧ e.cols.lo ≤ x ∧ x ≤ e.cols.hi ∧
      l.mask.getD x false = true := by
  simp only [Repairing.takes, Repairing.boxHas, Repairing.visits, Bool.and_eq_true, decide_eq_true_eq, and_assoc]

/-- The ring's entry of a line after a repair (R91, R98). -/
theorem repairRing_line {i : Nat} {l : RingLine} (h : lines[i]? = some l) :
    (repairRing u e lines)[i]? = some { l with
      pixels := l.pixels.mapIdx fun x p => if e.takes u l x then repairPixel u e lines l.number x p else p } := by
  unfold repairRing Repairing.takes
  rw [List.getElem?_map, h, Option.map_some]
  cases e.boxHas u l.number with
  | true => simp [repairLine_eq_mapIdx]
  | false =>
    have same : l.pixels.mapIdx (fun _ p => p) = l.pixels := List.ext_getElem? (by simp)
    simp [same]

end repairPixel

/-! ## Charges (R56) -/

theorem Frame.takesRow_iff (f : Frame) (line : Nat) : f.takesRow line = true ↔ f.containsRow line := by
  unfold Frame.takesRow Frame.containsRow Frame.firstRow
  cases f.closed <;> simp

theorem chargeFrames_first {line : Nat} {add : Tally → Tally} {f : Frame} {before : List Frame} (after : List Frame)
    (hb : ∀ g ∈ before, ¬g.containsRow line) (hf : f.containsRow line) :
    chargeFrames line add (before ++ f :: after) = some (before ++ { f with tally := add f.tally } :: after) := by
  induction before with
  | nil => exact if_pos ((f.takesRow_iff line).mpr hf)
  | cons g gs ih =>
    have hg : ¬g.takesRow line = true := fun h => hb g List.mem_cons_self ((g.takesRow_iff line).mp h)
    rw [List.cons_append, chargeFrames, if_neg hg, ih fun x hx => hb x (List.mem_cons_of_mem g hx)]
    rfl

theorem chargeFrames_none {line : Nat} {add : Tally → Tally} {l : List Frame} (h : ∀ g ∈ l, ¬g.containsRow line) :
    chargeFrames line add l = none := by
  induction l with
  | nil => rfl
  | cons g gs ih =>
    have hg : ¬g.takesRow line = true := fun k => h g List.mem_cons_self ((g.takesRow_iff line).mp k)
    rw [chargeFrames, if_neg hg, ih fun x hx => h x (List.mem_cons_of_mem g hx)]
    rfl

/-- A charge goes to the oldest frame that takes the line, else to the outside tally (R56, R57). -/
theorem Frd.charge_charged (c : Frd) (line : Nat) (add : Tally → Tally) : Charged c (c.charge line add) line add := by
  constructor
  case frame =>
    intro before f after ht hb hf
    rw [Frd.charge, ht, chargeFrames_first after hb hf]
  case outside =>
    intro h
    rw [Frd.charge, chargeFrames_none h]

end Sys2Proof.Machine

/-! PROOF. A repair writes masked pixels only, is charged, and ends (O54). -/

namespace Sys2Proof.Machine

open Sys2Proof

/-! ## The region whose repair completes (R81, R82) -/

theorem find?_setRegionCounts (slot a b x : Nat) (l : List Region) :
    (setRegionCounts slot a b l).find? (fun r => r.slot = x) = (l.find? fun r => r.slot = x).map fun r =>
      if r.slot = slot then { r with repaired := some a, unrepaired := some b } else r := by
  unfold setRegionCounts
  rw [List.find?_map]
  congr 2
  funext r
  dsimp only [Function.comp]
  split <;> rfl

theorem dropSlot_setRegionCounts (slot a b : Nat) (l : List Region) :
    dropSlot slot (setRegionCounts slot a b l) = dropSlot slot l := by
  induction l with
  | nil => rfl
  | cons r rs ih =>
    unfold dropSlot setRegionCounts at ih ⊢
    rw [List.map_cons, List.filter_cons, List.filter_cons, ih]
    by_cases h : r.slot = slot
    · simp [h]
    · simp [h]

/-- The samples of a repair are written, and its counts into the entry of its region (R81, R98). -/
def State.repairWritten (s : State) (e : Repairing) : State :=
  (s.setRng ⟨repairRing s.setup e s.rng.lines⟩).setDfd { s.dfd with
    regions := setRegionCounts e.slot (repairCounts s.setup e s.rng.lines).1
      (repairCounts s.setup e s.rng.lines).2 s.dfd.regions }

/-- The region of a completed repair ends and is charged (R82, R101). -/
def State.repairEnded (s : State) (e : Repairing) : State :=
  match (s.repairWritten e).dfd.regions.find? (fun r => r.slot = e.slot) with
  | some r => (s.repairWritten e).endRegion r (Tally.addRepaired (repairCounts s.setup e s.rng.lines).1
      (repairCounts s.setup e s.rng.lines).2)
  | none => s.repairWritten e

/-- The engine is IDLE with the counts of the repair that has ended (R99). -/
def State.repairIdle (s : State) (e : Repairing) : State :=
  (s.repairEnded e).setRpe ⟨s.rpe.queue, none, (repairCounts s.setup e s.rng.lines).1,
    (repairCounts s.setup e s.rng.lines).2⟩

section repairEnded

variable (s : State) (e : Repairing)

theorem State.repairEnded_rpe : (s.repairEnded e).rpe = s.rpe := by
  unfold State.repairEnded
  split <;> rfl

theorem State.finishRepair_eq : s.finishRepair e = ((s.repairIdle e).repairTake.postRepair).ringRelease := by
  unfold State.repairIdle
  rw [← s.repairEnded_rpe e]
  rfl

theorem State.repairEnded_lines : (s.repairEnded e).rng.lines = repairRing s.setup e s.rng.lines := by
  unfold State.repairEnded
  split <;> rfl

theorem State.repairWritten_find (x : Nat) :
    (s.repairWritten e).dfd.regions.find? (fun r => r.slot = x) = (s.dfd.regions.find? fun r => r.slot = x).map
      fun r => if r.slot = e.slot then { r with
        repaired := some (repairCounts s.setup e s.rng.lines).1
        unrepaired := some (repairCounts s.setup e s.rng.lines).2 } else r :=
  find?_setRegionCounts _ _ _ _ _

/-- The region of the repair has left the table (R82). -/
theorem State.repairEnded_regions : (s.repairEnded e).dfd.regions = s.dfd.regions.filter fun r => r.slot ≠ e.slot := by
  unfold State.repairEnded
  split
  · rename_i r hr
    have hslot : r.slot = e.slot := by simpa using List.find?_some hr
    show dropSlot r.slot (setRegionCounts _ _ _ _) = _
    rw [hslot]
    exact dropSlot_setRegionCounts _ _ _ _
  · rename_i hn
    have hout : dropSlot e.slot (setRegionCounts _ _ _ _) = (s.repairWritten e).dfd.regions :=
      List.filter_eq_self.mpr fun r hr => by simpa using List.find?_eq_none.mp hn r hr
    exact hout.symm.trans (dropSlot_setRegionCounts _ _ _ _)

/-- A completed repair is charged at the first raw line of its region (R56, R101). -/
theorem State.repairEnded_charged {r : Region} (h : s.dfd.regions.find? (fun r => r.slot = e.slot) = some r) :
    (s.repairEnded e).frd = s.frd.charge r.first (Tally.addRepaired (repairCounts s.setup e s.rng.lines).1
      (repairCounts s.setup e s.rng.lines).2) := by
  have hslot : r.slot = e.slot := by simpa using List.find?_some h
  have hfind := s.repairWritten_find e e.slot
  rw [h, Option.map_some, if_pos hslot] at hfind
  unfold State.repairEnded
  rw [hfind]
  rfl

end repairEnded

/-! ## The next region (R88) -/

section repairTake

variable {t : State}

theorem State.repairTake_empty (h : t.rpe.queue = []) : t.repairTake = t := by
  unfold State.repairTake
  rw [h]
  split
  · rename_i e
    cases e
  · rfl

theorem State.repairTake_head {slot : Nat} {rest : List Nat} {g : Region} (h : t.rpe.current = none)
    (hq : t.rpe.queue = slot :: rest) (hg : t.dfd.regions.find? (fun r => r.slot = slot) = some g) :
    t.repairTake = (t.setDfd { t.dfd with regions := setRegionState slot .repairing t.dfd.regions }).setRpe
      ⟨rest, some ⟨slot, g.first, g.last, g.cols⟩, 0, 0⟩ := by
  unfold State.repairTake
  simp only [h, hq, hg]

/-- An IDLE engine takes one region from its queue, if it holds any, and leaves ring and frames alone. -/
theorem State.repairTake_keeps (h : t.rpe.current = none) :
    t.repairTake.rng = t.rng ∧ t.repairTake.frd = t.frd ∧ t.repairTake.rpe.queue = t.rpe.queue.drop 1 := by
  cases hq : t.rpe.queue with
  | nil =>
    rw [State.repairTake_empty hq, hq]
    exact ⟨rfl, rfl, rfl⟩
  | cons slot rest =>
    unfold State.repairTake
    simp only [h, hq]
    split <;> exact ⟨rfl, rfl, rfl⟩

/-- Posting the Repair Engine's demand leaves the image path alone (R87). -/
theorem State.postRepair_keeps : t.postRepair.rng = t.rng ∧ t.postRepair.frd = t.frd ∧ t.postRepair.dfd = t.dfd ∧
    t.postRepair.rpe = t.rpe ∧ t.postRepair.trc.repair = repairGrade t.rpe.queue.length := by
  have h := State.still_post t .repair (repairGrade t.rpe.queue.length)
  exact ⟨congrArg Still.rng h, congrArg Still.frd h, congrArg Still.dfd h, congrArg Still.rpe h,
    congrArg Still.repair h⟩

end repairTake

/-- The demand of a queue length (R87). -/
theorem repairGrade_eq (n : Nat) : repairGrade n = if 16 ≤ n then .s1 else if 8 ≤ n then .s2 else .s3 := by
  unfold repairGrade
  split_ifs <;> first | rfl | omega

/-! ## The end of a repair (R88, R99 to R101) -/

/-- What the end of a repair leaves: the ring repaired but for lines released, the region charged and gone, the next
one taken, and the demand of the queue posted. -/
theorem State.finishRepair_leaves (s : State) (e : Repairing) :
    (s.finishRepair e).rng.lines <:+ repairRing s.setup e s.rng.lines ∧
    (s.finishRepair e).frd = (s.repairEnded e).frd ∧
    (s.finishRepair e).dfd = (s.repairIdle e).repairTake.dfd ∧
    (s.finishRepair e).rpe = (s.repairIdle e).repairTake.rpe ∧
    (s.finishRepair e).trc.repair = (if 16 ≤ (s.rpe.queue.drop 1).length then .s1
      else if 8 ≤ (s.rpe.queue.drop 1).length then .s2 else .s3) := by
  obtain ⟨taken_rng, taken_frd, taken_queue⟩ := State.repairTake_keeps (t := s.repairIdle e) rfl
  obtain ⟨posted_rng, posted_frd, posted_dfd, posted_rpe, posted_grade⟩ :=
    State.postRepair_keeps (t := (s.repairIdle e).repairTake)
  obtain ⟨frd, dfd, rpe, -, -, -, -, grade, -⟩ := ((s.repairIdle e).repairTake.postRepair).ringRelease_keeps
  rw [s.finishRepair_eq]
  refine ⟨?lines, ?frames, dfd.trans posted_dfd, rpe.trans posted_rpe, ?demand⟩
  case lines =>
    rw [State.ringRelease_lines, ← s.repairEnded_lines]
    refine (State.keptLines_suffix _).trans ?_
    rw [posted_rng, taken_rng]
    exact List.suffix_rfl
  case frames => rw [frd, posted_frd, taken_frd]; rfl
  case demand => rw [grade, posted_grade, repairGrade_eq, taken_queue]; rfl

/-! ## What the settling after a repair leaves of it -/

/-- What the reactions of the device leave of the Repair Engine and its regions. -/
structure RepairView where
  rpe : Rpe
  dfd : Dfd
  demand : Grade
  waits : Bool

def State.repairView (s : State) : RepairView := ⟨s.rpe, s.dfd, s.trc.repair, s.arbiterWaits⟩

section repairView

variable {s t : State}

theorem State.repairView_of_still (h : t.still = s.still) : t.repairView = s.repairView :=
  congrArg (fun x : Still => RepairView.mk x.rpe x.dfd x.repair (x.lif.tx.isSome || x.pins.linkHold)) h

/-- The demands of the ring and of the Frame Table leave it alone (R134). -/
theorem State.repairView_post (s : State) {src : Source} (g : Grade) (h : src = .ring ∨ src = .table) :
    (s.post src g).repairView = s.repairView := by
  rw [State.repairView_of_still (s.still_post src g)]
  obtain rfl | rfl := h <;> rfl

theorem State.repairView_ringRelease (s : State) : s.ringRelease.repairView = s.repairView := by
  unfold State.ringRelease
  dsimp only
  split
  · rfl
  · exact State.repairView_post _ _ (.inl rfl)

theorem State.repairView_setOp (s : State) (op : OpState) : (s.setOp op).repairView = s.repairView :=
  State.repairView_of_still (s := s.setScn { s.scn with op := op }) (State.still_evalHalted _)

theorem State.repairView_placeFrameDone (s : State) (n : Nat) : (s.placeFrameDone n).repairView = s.repairView := by
  unfold State.placeFrameDone
  split
  · rw [State.repairView_ringRelease]
    exact State.repairView_post _ _ (.inr rfl)
  · rfl

theorem State.repairView_place (s : State) (p : Producer) : (s.place p).repairView = s.repairView := by
  cases p with
  | cap =>
    show s.placeCal.repairView = _
    unfold State.placeCal
    dsimp only
    repeat' split
    · rfl
    · exact State.repairView_setOp _ _
    · rfl
    · rfl
  | frd =>
    show s.placeFrd.repairView = _
    unfold State.placeFrd
    split
    · rfl
    · rfl
    · exact State.repairView_placeFrameDone _ _
  | coe =>
    show s.placeCoe.repairView = _
    unfold State.placeCoe
    split
    · exact State.repairView_placeFrameDone _ _
    · rfl
  | scn =>
    show s.placeScn.repairView = _
    unfold State.placeScn
    dsimp only
    repeat' split
    · rfl
    · rfl
    · rfl
    · rfl
    · exact State.repairView_setOp _ _
    · rfl

theorem State.repairView_offer (s : State) (p : Producer) : (s.offer p).repairView = s.repairView := by
  unfold State.offer State.offerBy State.joinWaitList
  repeat' split
  · exact s.repairView_place p
  · rfl
  · rfl

theorem State.repairView_coeAdvance (h : s.coeAdvance = some t) : t.repairView = s.repairView := by
  unfold State.coeAdvance State.refreshSettled at h
  repeat' split at h
  all_goals cases h
  all_goals rfl

theorem State.repairView_testMarker (h : s.testMarker = some t) : t.repairView = s.repairView := by
  unfold State.testMarker at h
  split at h
  · cases h
    rfl
  · cases h

theorem State.repairView_drainCheck (h : s.drainCheck = some t) : t.repairView = s.repairView := by
  unfold State.drainCheck at h
  dsimp only at h
  repeat' split at h
  all_goals cases h
  all_goals rfl

/-- No reaction of the device touches the Repair Engine or the regions. -/
theorem State.repairView_settle (s : State) : s.settle.repairView = s.repairView := by
  refine State.settle_induct (P := fun t => t.repairView = s.repairView) (fun a b ha hb => ?_) rfl
  rw [← ha]
  rcases State.settleStep_cases hb with h | h | h | ⟨p, -, rfl⟩ | ⟨-, rfl⟩
  · exact State.repairView_coeAdvance h
  · exact State.repairView_testMarker h
  · exact State.repairView_drainCheck h
  · exact a.repairView_offer p
  · exact a.repairView_setOp .idle

/-- While the arbiter waits, the end of a row leaves the Repair Engine and the regions alone. -/
theorem State.repairView_finish (h : s.arbiterWaits = true) : s.finish.repairView = s.repairView := by
  have hw : s.settle.arbiterWaits = true := (congrArg RepairView.waits s.repairView_settle).trans h
  rw [State.finish, State.arbitrate_waits hw, State.repairView_settle]

theorem State.arbiterWaits_of_outer (h : t.outer = s.outer) : t.arbiterWaits = s.arbiterWaits :=
  congrArg (fun x : Outer => x.lif.tx.isSome || x.pins.linkHold) h

end repairView

theorem exec_repairComplete {s : State} {e : Repairing} (h : s.rpe.current = some e) :
    exec .repairComplete s = .next (s.finishRepair e).finish := by
  show execRepairComplete s = _
  unfold execRepairComplete
  rw [h]

/-- Settles O54: the ring by its lines, the search, the four forms of a new sample, and the end of a repair. -/
theorem repairWritesMaskedPixelsOnly : Obligations.RepairWritesMaskedPixelsOnly := by
  refine ⟨?ring, ?search, ?sample, ?idle, ?last, ?next⟩
  case ring =>
    intro u e lines i l hl
    refine ⟨_, repairRing_line u e lines hl, rfl, rfl, rfl, List.length_mapIdx, fun x p hp => ?_⟩
    refine ⟨if e.takes u l x then repairPixel u e lines l.number x p else p,
      by rw [List.getElem?_mapIdx, hp]; rfl, ?_⟩
    rw [← Repairing.takes_iff]
    by_cases h : e.takes u l x = true
    · rw [if_pos h]
      refine ⟨repairPixel_ir u e lines _ _ p, fun k => absurd h k, fun _ nb hnb => ?_⟩
      subst hnb
      exact ⟨repairPixel_alone u e lines p, fun chan v hc hv => repairPixel_sample u e lines p hc hv⟩
    · rw [if_neg h]
      exact ⟨rfl, fun _ => rfl, fun k => absurd k h⟩
  case search =>
    intro u e lines x y seek found h
    obtain rfl : found = nearest seek := by
      rcases h with ⟨rfl, h⟩ | ⟨rfl, h⟩ | ⟨rfl, h⟩ | ⟨rfl, h⟩
      · exact congrArg nearest (funext h).symm
      · exact congrArg nearest (funext h).symm
      · have hup : ∀ d, seek d = (decide (d ≤ y) && decide (e.first - u.d - 16 ≤ y - d) &&
            clearAt (lineAt lines (y - d)) x) := fun d => by rw [h, Bool.decide_and]
        exact congrArg nearest (funext hup).symm
      · exact congrArg nearest (funext h).symm
    exact ⟨fun d => nearest_eq_some_iff, nearest_eq_none_iff⟩
  case sample =>
    intro nb left right up down h v
    refine ⟨fun l r hl hr k => newSample_horizontal hl hr k, fun a b ha hb k => newSample_vertical ha hb k,
      ?both, fun hp vp => ?nearest⟩
    case both =>
      rintro l r a b rfl rfl rfl
      exact newSample_both rfl rfl rfl rfl
    case nearest =>
      rw [newSample_nearest hp vp]
      refine ⟨fun d hd k => ?_, fun d hd k => ?_, fun d hd k => ?_, fun d hd k => ?_⟩
      · rw [nearestOf_horizontal (.inl ⟨hd, by simpa [hd] using hp, rfl⟩) vp k]
        rfl
      · rw [nearestOf_horizontal (.inr ⟨by simpa [hd] using hp, hd, rfl⟩) vp k]
        rfl
      · rw [nearestOf_vertical (.inl ⟨hd, by simpa [hd] using vp, rfl⟩) hp k]
        rfl
      · rw [nearestOf_vertical (.inr ⟨by simpa [hd] using vp, hd, rfl⟩) hp k]
        rfl
  case idle =>
    intro s h
    show execRepairComplete s = _
    unfold execRepairComplete
    rw [h]
  case last =>
    intro s e hw hc hq
    have hview := State.repairView_finish ((State.arbiterWaits_of_outer (s.outer_finishRepair e)).trans hw)
    simp only [State.repairView, RepairView.mk.injEq] at hview
    obtain ⟨finish_rpe, finish_dfd, finish_grade, -⟩ := hview
    obtain ⟨-, -, dfd, rpe, grade⟩ := s.finishRepair_leaves e
    have hempty : (s.repairIdle e).repairTake = s.repairIdle e := State.repairTake_empty hq
    rw [hempty] at dfd rpe
    refine ⟨_, exec_repairComplete hc, ?_, ?_, ?_⟩
    · rw [finish_rpe, rpe, State.repairIdle, hq]
      rfl
    · rw [finish_dfd, dfd]
      exact s.repairEnded_regions e
    · rw [finish_grade, grade, hq]
      rfl
  case next =>
    intro s e r hc hr
    obtain ⟨lines, frd, dfd, rpe, grade⟩ := s.finishRepair_leaves e
    refine ⟨s.finishRepair e, exec_repairComplete hc, lines, ?charge, grade, fun slot rest g hq hne hg => ?taken⟩
    case charge =>
      rw [frd, s.repairEnded_charged e hr]
      exact Frd.charge_charged _ _ _
    case taken =>
      have hregions : (s.repairIdle e).dfd.regions = _ := s.repairEnded_regions e
      have hfind : (s.repairIdle e).dfd.regions.find? (fun r => r.slot = slot) = some g := by
        rw [hregions, List.find?_filter, ← hg]
        refine congrArg (fun p => List.find? p s.dfd.regions) (funext fun r => ?_)
        by_cases h : r.slot = slot <;> simp [h, hne]
      have htake := State.repairTake_head (t := s.repairIdle e) rfl hq hfind
      refine ⟨by rw [rpe, htake]; rfl, ?_⟩
      rw [dfd, htake]
      show setRegionState slot .repairing (s.repairIdle e).dfd.regions = _
      rw [hregions]
      rfl

end Sys2Proof.Machine

/-! PROOF. The Crop Output Engine: frames by their numbers, output steps, IMAGE records and FRAME_DONE (R50, R54, R114
to R121). -/

namespace Sys2Proof.Machine

open Sys2Proof

/-! ## Frames by their numbers (R42, R47) -/

/-- Change what a frame holds from its probe on, if it has the number `n`. -/
def Frame.editProbed (n : Nat) (edit : Probed → Probed) (f : Frame) : Frame :=
  match f.probed with
  | some p => if p.number = n then { f with probed := some (edit p) } else f
  | none => f

theorem raiseNextRow_map (n : Nat) (l : List Frame) : raiseNextRow n l =
    l.map (Frame.editProbed n fun p => { p with nextRow := p.nextRow + 1 }) := rfl

theorem setOpenReported_map (n : Nat) (l : List Frame) : setOpenReported n l =
    l.map (Frame.editProbed n fun p => { p with openReported := true }) := rfl

/-- No frame of a list has the number `n`. -/
def LacksNumber (n : Nat) (l : List Frame) : Prop := ∀ g ∈ l, ∀ q, g.probed = some q → q.number ≠ n

section number

variable {n : Nat} {before after l : List Frame} {f : Frame} {p : Probed}

theorem lacksNumber_append (h : LacksNumber n (before ++ after)) : LacksNumber n before ∧ LacksNumber n after :=
  ⟨fun g hg => h g (List.mem_append_left _ hg), fun g hg => h g (List.mem_append_right _ hg)⟩

theorem LacksNumber.number_ne (h : LacksNumber n l) {g : Frame} (hg : g ∈ l) : g.probed.map (·.number) ≠ some n := by
  intro k
  obtain ⟨q, hq, hn⟩ := Option.map_eq_some_iff.mp k
  exact h g hg q hq hn

theorem Frd.byNumber_split {c : Frd} (ht : c.table = before ++ f :: after) (hf : f.probed = some p)
    (hb : LacksNumber p.number before) : c.byNumber p.number = some f := by
  have hnone : before.find? (fun g => decide (g.probed.map (·.number) = some p.number)) = none :=
    List.find?_eq_none.mpr fun g hg => by simpa using hb.number_ne hg
  rw [Frd.byNumber, ht, List.find?_append, hnone]
  simp [hf]

theorem LacksNumber.map_edit (h : LacksNumber n l) (edit : Probed → Probed) : l.map (Frame.editProbed n edit) = l := by
  refine (List.map_congr_left fun g hg => ?_).trans (List.map_id l)
  unfold Frame.editProbed
  cases hp : g.probed with
  | none => rfl
  | some q => exact if_neg (h g hg q hp)

theorem map_editProbed (hf : f.probed = some p) (h : LacksNumber p.number (before ++ after)) (edit : Probed → Probed) :
    (before ++ f :: after).map (Frame.editProbed p.number edit) =
      before ++ { f with probed := some (edit p) } :: after := by
  obtain ⟨hb, ha⟩ := lacksNumber_append h
  rw [List.map_append, List.map_cons, hb.map_edit, ha.map_edit]
  simp [Frame.editProbed, hf]

theorem LacksNumber.filter (h : LacksNumber n l) :
    l.filter (fun g => !decide (g.probed.map (·.number) = some n)) = l :=
  List.filter_eq_self.mpr fun g hg => by simpa using h.number_ne hg

theorem filter_number (hf : f.probed = some p) (h : LacksNumber p.number (before ++ after)) :
    (before ++ f :: after).filter (fun g => !decide (g.probed.map (·.number) = some p.number)) = before ++ after := by
  obtain ⟨hb, ha⟩ := lacksNumber_append h
  rw [List.filter_append, List.filter_cons_of_neg (by simp [hf]), hb.filter, ha.filter]

end number

/-! ## Output steps (R115 to R117, R120) -/

/-- An output frame is past its probe, and accepted or passed (R115). -/
theorem Frame.isOutput_iff (f : Frame) : f.isOutput = true ↔
    ∃ p, f.probed = some p ∧ (p.rejected = false ∨ p.passed = true) := by
  unfold Frame.isOutput
  cases f.probed with
  | none => simp
  | some p => simp [Probed.isOutput_iff]

/-- A region's box does not contain a line (R90). -/
theorem Region.boxHas_eq_false (u : Setup) (g : Region) (line : Nat) : g.boxHas u line = false ↔
    line < g.first - u.d ∨ min (u.n - 1) (g.last + u.d) < line := by
  unfold Region.boxHas
  rw [Bool.and_eq_false_iff, decide_eq_false_iff_not, decide_eq_false_iff_not, Nat.not_le, Nat.not_le]

theorem rowWithin_iff (c : Coe) (f : Frame) (r : Nat) : rowWithin c f r = true ↔
    (∀ x, f.closed = some x → r ≤ x.lastRow) ∧ (f.closed = none → r ≤ c.settled) := by
  unfold rowWithin
  cases f.closed <;> simp

theorem State.lineFinal_iff (s : State) (r : Nat) : s.lineFinal r = true ↔
    ∃ l, s.ringLine r = some l ∧ l.final = true := by
  unfold State.lineFinal
  cases s.ringLine r <;> simp

/-- A row is eligible (R116). -/
theorem State.rowEligible_iff (s : State) (f : Frame) (p : Probed) (r : Nat) : s.rowEligible f p r = true ↔
    p.openReported = true ∧ (∃ l, s.ringLine r = some l ∧ l.final = true) ∧
      (∀ g ∈ s.dfd.regions, r < g.first - s.setup.d ∨ min (s.setup.n - 1) (g.last + s.setup.d) < r) ∧
      (∀ x, f.closed = some x → r ≤ x.lastRow) ∧ (f.closed = none → r ≤ s.coe.settled) := by
  unfold State.rowEligible
  simp only [Bool.and_eq_true, List.all_eq_true, Bool.not_eq_true', State.lineFinal_iff, Region.boxHas_eq_false,
    rowWithin_iff, and_assoc]

theorem rowsDone_iff (f : Frame) (p : Probed) : rowsDone f p = true ↔
    ∃ x, f.closed = some x ∧ x.lastRow < p.nextRow := by
  unfold rowsDone
  cases f.closed <;> simp

section coeAdvance

variable {s : State} {f : Frame} {p : Probed}

theorem State.refreshSettled_open (hf : s.coe.frame.bind s.frd.byNumber = some f) (h : f.closed = none) :
    s.refreshSettled = s.setCoe { s.coe with settled := settledLimit s.setup s.frd f } := by
  unfold State.refreshSettled
  rw [hf]
  exact if_pos h

theorem State.refreshSettled_closed (hf : s.coe.frame.bind s.frd.byNumber = some f) (h : f.closed ≠ none) :
    s.refreshSettled = s := by
  unfold State.refreshSettled
  rw [hf]
  exact if_neg h

theorem State.coeAdvance_busy (h : s.coe.step = .sending ∨ s.coe.step = .closing) : s.coeAdvance = none := by
  unfold State.coeAdvance
  rcases h with h | h <;> rw [h]

/-- IDLE takes the first output frame of the table (R115). -/
theorem State.coeAdvance_idle (h : s.coe.step = .idle) : s.coeAdvance =
    (s.frd.table.find? Frame.isOutput).map fun f => (s.setCoe { s.coe with
      step := .waiting
      frame := f.probed.map (·.number)
      segOffset := 0 }).refreshSettled := by
  unfold State.coeAdvance
  rw [h]
  cases s.frd.table.find? Frame.isOutput <;> rfl

theorem State.coeAdvance_idle_none (h : s.coe.step = .idle)
    (hn : ∀ f ∈ s.frd.table, ∀ p, f.probed = some p → p.rejected = true ∧ p.passed = false) : s.coeAdvance = none := by
  have hfind : s.frd.table.find? Frame.isOutput = none := List.find?_eq_none.mpr fun f hf k => by
    obtain ⟨p, hp, ho⟩ := f.isOutput_iff.mp k
    obtain ⟨h1, h2⟩ := hn f hf p hp
    simp [h1, h2] at ho
  rw [State.coeAdvance_idle h, hfind]
  rfl

/-- The first output frame of the table is taken, with its settled limit while it is OPEN (R115, R116; log 30). -/
theorem State.coeAdvance_idle_takes {before after : List Frame} (h : s.coe.step = .idle)
    (ht : s.frd.table = before ++ f :: after) (hp : f.probed = some p) (ho : p.rejected = false ∨ p.passed = true)
    (hb : ∀ g ∈ before, ∀ q, g.probed = some q → q.rejected = true ∧ q.passed = false ∧ q.number ≠ p.number) :
    s.coeAdvance = some (s.setCoe { s.coe with
      step := .waiting
      frame := some p.number
      segOffset := 0
      settled := if f.closed = none then settledLimit s.setup s.frd f else s.coe.settled }) := by
  have hnone : before.find? Frame.isOutput = none := List.find?_eq_none.mpr fun g hg k => by
    obtain ⟨q, hq, hout⟩ := g.isOutput_iff.mp k
    obtain ⟨h1, h2, -⟩ := hb g hg q hq
    simp [h1, h2] at hout
  have hfind : s.frd.table.find? Frame.isOutput = some f := by
    rw [ht, List.find?_append, hnone, List.find?_cons_of_pos (f.isOutput_iff.mpr ⟨p, hp, ho⟩)]
    rfl
  have hnumber : s.frd.byNumber p.number = some f := Frd.byNumber_split ht hp fun g hg q hq => (hb g hg q hq).2.2
  rw [State.coeAdvance_idle h, hfind, Option.map_some, hp]
  by_cases hc : f.closed = none
  · rw [State.refreshSettled_open (by exact hnumber) hc, if_pos hc]
    rfl
  · rw [State.refreshSettled_closed (by exact hnumber) hc, if_neg hc]
    rfl

/-- WAITING goes to CLOSING past the last row, and to SENDING with an eligible row (R117, R120). -/
theorem State.coeAdvance_waiting (h : s.coe.step = .waiting) (hf : s.coe.frame.bind s.frd.byNumber = some f)
    (hp : f.probed = some p) : s.coeAdvance =
      if rowsDone f p then some (s.setCoe { s.coe with step := .closing })
      else if s.rowEligible f p p.nextRow then some (s.setCoe { s.coe with step := .sending })
      else none := by
  unfold State.coeAdvance
  rw [h]
  dsimp only
  rw [hf]
  dsimp only
  rw [hp]

end coeAdvance

/-! ## IMAGE records (R118, R119, R200) -/

/-- Bytes of a pixel as a profile sends it (R119, R200). -/
def pixelSize (f : Profile) : Nat := (if f.infrared then 4 else 3) * if f.eight then 1 else 2

theorem sampleBytes_length (f : Profile) (v : Nat) : (sampleBytes f v).length = if f.eight then 1 else 2 := by
  unfold sampleBytes
  cases f.eight <;> rfl

theorem pixelBytes_length (u : Setup) (f : Frame) (p : Probed) (l : RingLine) (j : Nat) :
    (pixelBytes u f p l j).length = pixelSize f.profile := by
  unfold pixelBytes pixelSize
  dsimp only
  cases f.profile.infrared with
  | true =>
    simp only [List.length_append, sampleBytes_length, if_true]
    omega
  | false =>
    simp only [List.length_append, sampleBytes_length, Bool.false_eq_true, if_false, List.length_nil]
    omega

theorem length_flatMap_const {α β : Type} {g : α → List β} {k : Nat} {l : List α} (h : ∀ x ∈ l, (g x).length = k) :
    (l.flatMap g).length = l.length * k := by
  rw [List.length_flatMap, List.map_congr_left h, List.map_const', List.sum_replicate, smul_eq_mul]

theorem imagePayload_length (u : Setup) (f : Frame) (p : Probed) (l : RingLine) (offset count : Nat) :
    (imagePayload u f p l offset count).length = 8 + count * pixelSize f.profile := by
  unfold imagePayload
  rw [List.length_append, length_flatMap_const fun i _ => pixelBytes_length u f p l (offset + i), List.length_range]
  rfl

/-- A full IMAGE record of every channel set and depth fits the transmit payload limit (R118, R166). -/
theorem segmentSize_fits (f : Profile) : 8 + segmentSize f * pixelSize f ≤ 2048 := by
  unfold segmentSize pixelSize
  cases f.infrared <;> cases f.eight <;> decide

theorem segmentCount_eq (f : Frame) (p : Probed) (offset : Nat) : segmentCount f p offset =
    min (if f.profile.infrared = true ∧ f.profile.eight = false then 255 else 256) (p.colCount - offset) := by
  unfold segmentCount segmentSize
  simp only [Bool.and_eq_true, Bool.not_eq_true']

theorem segment_fits (u : Setup) (f : Frame) (p : Probed) (l : RingLine) (offset : Nat) :
    (imagePayload u f p l offset (segmentCount f p offset)).length ≤ 2048 := by
  rw [imagePayload_length]
  have hcount : segmentCount f p offset ≤ segmentSize f.profile := Nat.min_le_left _ _
  exact (Nat.add_le_add_left (Nat.mul_le_mul_right _ hcount) 8).trans (segmentSize_fits f.profile)

/-- The bytes of an output pixel are those of the samples that it takes (R113, R114, R119). -/
theorem pixelBytes_of_pixel {u : Setup} {f : Frame} {p : Probed} {l : RingLine} {j : Nat} {px : Pixel}
    (h : (u.wl : Int) ≤ sensorColumn f p j ∧ sensorColumn f p j ≤ u.wr ∧
        l.pixels[(sensorColumn f p j).toNat]? = some px ∨
      (sensorColumn f p j < u.wl ∨ (u.wr : Int) < sensorColumn f p j) ∧
        px = ⟨half f.profile.fill, half f.profile.fill, half f.profile.fill, half f.profile.fill⟩) :
    pixelBytes u f p l j = sampleBytes f.profile px.r.toNat ++ sampleBytes f.profile px.g.toNat ++
      sampleBytes f.profile px.b.toNat ++ (if f.profile.infrared then sampleBytes f.profile px.ir.toNat else []) := by
  unfold pixelBytes
  dsimp only
  rcases h with ⟨low, high, hpx⟩ | ⟨hout, rfl⟩
  · rw [if_pos ⟨low, high⟩, List.getD_eq_getElem?_getD, hpx]
    rfl
  · rw [if_neg (by omega)]

section takeImage

variable {s t : State} {f : Frame} {p : Probed}

/-- The IMAGE record that is presented while a row is being sent (R118). -/
theorem State.takeImage_sending {l : RingLine} (h : s.coe.step = .sending)
    (hf : s.coe.frame.bind s.frd.byNumber = some f) (hp : f.probed = some p) (hl : s.ringLine p.nextRow = some l) :
    s.takeImage = some (⟨0x50#8, 0#8, imagePayload s.setup f p l s.coe.segOffset (segmentCount f p s.coe.segOffset)⟩,
      if s.coe.segOffset + segmentCount f p s.coe.segOffset < p.colCount then
        s.setCoe { s.coe with segOffset := s.coe.segOffset + segmentCount f p s.coe.segOffset }
      else ((s.setCoe { s.coe with segOffset := 0, step := .waiting }).setFrd { s.frd with
        table := raiseNextRow p.number s.frd.table }).ringRelease) := by
  unfold State.takeImage
  rw [if_neg (not_not.mpr h), hf]
  dsimp only
  rw [hp]
  dsimp only
  rw [hl]
  split <;> rfl

theorem State.takeImage_fits {r : Record} (h : s.takeImage = some (r, t)) :
    r.kind = 0x50#8 ∧ r.payload.length ≤ 2048 := by
  unfold State.takeImage at h
  dsimp only at h
  repeat' split at h
  all_goals cases h
  · exact ⟨rfl, segment_fits _ _ _ _ _⟩
  · exact ⟨rfl, segment_fits _ _ _ _ _⟩

end takeImage

/-! ## Reports that enter (R50, R54, R121) -/

section reports

variable {s : State} {before after : List Frame} {f : Frame} {p : Probed}

theorem State.placeFrd_open {n : Nat} {payload : List Byte} {rest : List FrdReport}
    (h : s.frd.waiting = .frameOpen n payload :: rest) :
    s.placeFrd = (s.setLif { s.lif with reports := s.lif.reports ++ [⟨0x41#8, 0#8, payload⟩] }).setFrd { s.frd with
      waiting := rest
      table := setOpenReported n s.frd.table } := by
  unfold State.placeFrd
  rw [h]
  rfl

theorem State.placeFrameDone_closed {c : Closed} (ht : s.frd.table = before ++ f :: after) (hp : f.probed = some p)
    (hc : f.closed = some c) (hn : LacksNumber p.number (before ++ after)) :
    s.placeFrameDone p.number =
      ((s.pushReport ⟨0x42#8, 0#8, frameDonePayload f p c⟩).freeFrame p.number).ringRelease := by
  unfold State.placeFrameDone State.frameDoneRecord
  rw [Frd.byNumber_split ht hp (lacksNumber_append hn).1]
  dsimp only
  rw [hp, hc]

/-- A frame is freed: its entry leaves the table, and the table's demand is posted (R54, R55). -/
theorem State.freeFrame_keeps (ht : s.frd.table = before ++ f :: after) (hp : f.probed = some p)
    (hn : LacksNumber p.number (before ++ after)) :
    (s.freeFrame p.number).frd = { s.frd with table := before ++ after } ∧
    (s.freeFrame p.number).coe = s.coe ∧
    (s.freeFrame p.number).lif.reports = s.lif.reports ∧
    (s.freeFrame p.number).lif.waitList = s.lif.waitList ∧
    (s.freeFrame p.number).trc.table = tableGrade (before ++ after).length := by
  have htable := filter_number hp hn
  rw [← ht] at htable
  unfold State.freeFrame State.postTable
  rw [htable]
  have h := State.still_post (s.setFrd { s.frd with table := before ++ after }) .table
    (tableGrade (before ++ after).length)
  exact ⟨congrArg Still.frd h, congrArg Still.coe h, congrArg (fun x => x.lif.reports) h,
    congrArg (fun x => x.lif.waitList) h, congrArg Still.table h⟩

/-- The row count of FRAME_DONE: none for a frame that is not output (R121). -/
theorem Probed.rowCount_eq (p : Probed) (n : Nat) :
    (if p.rejected = true ∧ p.passed = false then 0 else n) = if p.isOutput then n else 0 := by
  unfold Probed.isOutput
  cases p.rejected <;> cases p.passed <;> rfl

/-- The engine places the FRAME_DONE of its frame, which frees the frame, and goes to IDLE (R54, R120, R121). -/
theorem State.placeCoe_closed {c : Closed} (ht : s.frd.table = before ++ f :: after) (hp : f.probed = some p)
    (hc : f.closed = some c) (hn : LacksNumber p.number (before ++ after)) (hf : s.coe.frame = some p.number) :
    s.placeCoe = (((s.setCoe { s.coe with step := .idle, frame := none, segOffset := 0 }).pushReport
      ⟨0x42#8, 0#8, frameDonePayload f p c⟩).freeFrame p.number).ringRelease := by
  unfold State.placeCoe
  rw [hf]
  exact State.placeFrameDone_closed ht hp hc hn

end reports

end Sys2Proof.Machine

/-! PROOF. The Preview Reducer, and output and preview as a whole (O55). -/

namespace Sys2Proof.Machine

open Sys2Proof

/-! ## The Preview Reducer (R122 to R125) -/

section preview

variable {s t : State}

theorem addBoxes_length (boxes : List BoxSum) (px : List Pixel) (n : Nat) : (addBoxes boxes px n).length = n := by
  simp [addBoxes]

theorem addBoxes_getElem? (boxes : List BoxSum) (px : List Pixel) {n i : Nat} (h : i < n) :
    (addBoxes boxes px n)[i]? = some ⟨(boxes.getD i ⟨0, 0, 0⟩).r + (((px.drop (8 * i)).take 8).map (·.r.toNat)).sum,
      (boxes.getD i ⟨0, 0, 0⟩).g + (((px.drop (8 * i)).take 8).map (·.g.toNat)).sum,
      (boxes.getD i ⟨0, 0, 0⟩).b + (((px.drop (8 * i)).take 8).map (·.b.toNat)).sum⟩ := by
  unfold addBoxes
  rw [List.getElem?_map, List.getElem?_range h]
  rfl

/-- A sample of a preview row of so many lines (R123, R125). -/
theorem previewSample_eq (sum lines : Nat) : previewSample sum (8 * lines) =
    byte (min 255 (((sum + 4 * lines) / (8 * lines) + 128) / 256)) := by
  unfold previewSample toEight
  rw [show 8 * lines / 2 = 4 * lines by omega]

theorem State.previewLine_off (h : s.coe.preview = false) (px : List Pixel) : s.previewLine px = s :=
  if_neg (by simp [h])

/-- A line is added to the boxes; the eighth completes a row (R122, R123). -/
theorem State.previewLine_on (h : s.coe.preview = true) (px : List Pixel) : s.previewLine px =
    if 8 ≤ s.coe.lineCount + 1 then (s.setCoe { s.coe with
      boxes := addBoxes s.coe.boxes px (s.setup.w / 8)
      lineCount := s.coe.lineCount + 1 }).completePreviewRow
    else s.setCoe { s.coe with
      boxes := addBoxes s.coe.boxes px (s.setup.w / 8)
      lineCount := s.coe.lineCount + 1 } := by
  unfold State.previewLine
  exact if_pos h

theorem State.previewTail_on (h : s.coe.preview = true) :
    s.previewTail = if 0 < s.coe.lineCount then s.completePreviewRow else s := if_pos h

theorem State.previewTail_off (h : s.coe.preview = false) :
    s.previewTail = s.setCoe { s.coe with previewDone := true } := if_neg (by simp [h])

/-- The record of a row of the preview queue, 512 pixels or the rest of the row (R124, R199, R200). -/
theorem State.takePreview_head {row : PreviewRow} {rest : List PreviewRow} {count : Nat}
    (h : s.coe.rows = row :: rest) (hc : count = min 512 (row.pixels.length - s.coe.previewOffset)) :
    s.takePreview = some (⟨0x51#8, 0#8, le16 row.index ++ le16 row.pixels.length ++ le16 s.coe.previewOffset ++
      le16 count ++ ((row.pixels.drop s.coe.previewOffset).take count).flatMap fun (r, g, b) => [r, g, b]⟩,
      if s.coe.previewOffset + count < row.pixels.length then
        s.setCoe { s.coe with previewOffset := s.coe.previewOffset + count }
      else s.setCoe { s.coe with rows := rest, previewOffset := 0 }) := by
  subst hc
  unfold State.takePreview
  rw [h]
  dsimp only [previewSegment]
  split <;> rfl

theorem State.takePreview_fits {r : Record} (h : s.takePreview = some (r, t)) :
    r.kind = 0x51#8 ∧ r.payload.length ≤ 2048 := by
  cases hr : s.coe.rows with
  | nil =>
    unfold State.takePreview at h
    rw [hr] at h
    cases h
  | cons row rest =>
    rw [State.takePreview_head hr rfl] at h
    cases h
    refine ⟨rfl, ?_⟩
    dsimp only
    rw [List.length_append, length_flatMap_const (k := 3) fun x _ => rfl, List.length_take]
    have hfields (a b c d : Nat) : (le16 a ++ le16 b ++ le16 c ++ le16 d).length = 8 := rfl
    rw [hfields]
    omega

end preview

/-- Settles O55: each operation of the engine and of the reducer by its own lemma. -/
theorem outputAndPreviewAreSent : Obligations.OutputAndPreviewAreSent := by
  refine ⟨fun _ _ _ => State.takeImage_fits, segmentCount_eq, fun _ _ _ => State.takePreview_fits,
    ?steps, ?pixel, ?frame, ?line, ?complete, ?rest⟩
  case steps =>
    intro s
    refine ⟨State.coeAdvance_busy, State.coeAdvance_idle_none,
      fun before f after p hs ht hp ho hb => State.coeAdvance_idle_takes hs ht hp ho hb,
      fun f hf => ⟨State.refreshSettled_open hf, State.refreshSettled_closed hf⟩,
      fun f p hs hf hp => ⟨fun c hc hlast => ?closes, fun hc ready hr => ?row⟩⟩
    case closes =>
      rw [State.coeAdvance_waiting hs hf hp, if_pos ((rowsDone_iff f p).mpr ⟨c, hc, hlast⟩)]
    case row =>
      have hnot : ¬rowsDone f p = true := fun k => by
        obtain ⟨x, hx, hlt⟩ := (rowsDone_iff f p).mp k
        exact absurd (hc x hx) (Nat.not_le.mpr hlt)
      have heligible : s.rowEligible f p p.nextRow = true ↔ ready := by
        rw [State.rowEligible_iff, hr, and_iff_right hc]
      rw [State.coeAdvance_waiting hs hf hp, if_neg hnot]
      exact ⟨fun k => if_pos (heligible.mpr k), fun k => if_neg fun x => k (heligible.mp x)⟩
  case pixel =>
    rintro u f p l j _ px sample rfl hpx hsample
    have hbytes (v : Half) : sample v = sampleBytes f.profile v.toNat := hsample v
    rw [pixelBytes_of_pixel hpx]
    simp only [hbytes]
  case frame =>
    intro s before after f p ht hp hframe hn
    have hfind : s.coe.frame.bind s.frd.byNumber = some f := by
      rw [hframe]
      exact Frd.byNumber_split ht hp (lacksNumber_append hn).1
    refine ⟨fun l count next hs hl hcount hnext => ?sends, fun c hs hc => ?done, fun payload rest hw => ?opens⟩
    case sends =>
      subst hcount hnext
      rw [State.takeImage_sending hs hfind hp hl, raiseNextRow_map, ht, map_editProbed hp hn]
      rfl
    case done =>
      obtain ⟨frd, coe, reports, waitList, table⟩ := State.freeFrame_keeps (s := (s.setCoe { s.coe with
        step := .idle, frame := none, segOffset := 0 }).pushReport ⟨0x42#8, 0#8, frameDonePayload f p c⟩) ht hp hn
      refine ⟨_, State.placeCoe_closed ht hp hc hn hframe, ?_, waitList, frd, coe, table⟩
      rw [reports, Probed.rowCount_eq]
      refine congrArg (fun payload => s.lif.reports ++ [(⟨0x42#8, 0#8, payload⟩ : Record)]) ?_
      unfold frameDonePayload Tally.bytes
      simp only [List.append_assoc]
      rfl
    case opens =>
      show s.placeFrd = _
      rw [State.placeFrd_open hw, setOpenReported_map, ht, map_editProbed hp hn]
  case line =>
    rintro s px _ rfl
    refine ⟨addBoxes_length _ _ _, ?_, fun h => State.previewLine_off h px, fun h hlt => ?_, fun h heq => ?_⟩
    · rintro i _ hi rfl
      exact addBoxes_getElem? _ _ hi
    · rw [State.previewLine_on h, if_neg (by omega)]
    · rw [State.previewLine_on h, if_pos (by omega), heq]
  case complete =>
    rintro s _ _ sample hcount hsample rfl rfl
    have hrow : previewRow s.coe.rowIndex s.coe.lineCount s.coe.boxes =
        ⟨s.coe.rowIndex, s.coe.boxes.map fun b => (sample b.r, sample b.g, sample b.b)⟩ := by
      unfold previewRow
      simp only [previewSample_eq, hsample]
    refine ⟨fun h => ?_, fun h => ?_, fun h => ?_⟩
    · rw [← hrow]
      exact if_pos h
    · exact if_neg (Nat.not_lt.mpr h)
    · rw [State.previewTail_on h, if_pos (Nat.lt_of_succ_le hcount)]
  case rest =>
    intro s
    refine ⟨fun h h0 => ?_, State.previewTail_off, fun h => ?_, ?_⟩
    · rw [State.previewTail_on h, if_neg (by omega)]
    · unfold State.takePreview
      rw [h]
    · rintro row rest _ count hr rfl hcount
      exact State.takePreview_head hr hcount

end Sys2Proof.Machine

/-! PROOF. The runs of a line: joined beyond the thirty-first, found among the verdicts, and merged (R64 to R66). -/

namespace Sys2Proof.Machine

open Sys2Proof

/-! ## The list of at most 32 runs (R66) -/

section coalesce

variable {runs : List Run}

theorem coalesce_few (h : runs.length ≤ 32) : coalesce runs = runs := if_pos h

theorem coalesce_many (h : 32 < runs.length) : coalesce runs = runs.take 31 ++
    [⟨((runs[31]?).map (·.lo)).getD 0, (runs.getLast?.map (·.hi)).getD 0, ((runs.drop 31).map (·.raw)).sum⟩] := by
  rw [← List.head?_drop, ← (runs.getLast?_drop (i := 31)).trans (if_neg (by omega))]
  exact if_neg (Nat.not_le.mpr h)

theorem coalesce_length_le (runs : List Run) : (coalesce runs).length ≤ 32 := by
  rcases Nat.lt_or_ge 32 runs.length with h | h
  · rw [coalesce_many h, List.length_append, List.length_take]
    exact Nat.succ_le_succ (Nat.min_le_left ..)
  · rwa [coalesce_few h]

theorem coalesce_raw (runs : List Run) : ((coalesce runs).map (·.raw)).sum = (runs.map (·.raw)).sum := by
  rcases Nat.lt_or_ge 32 runs.length with h | h
  · rw [coalesce_many h]
    conv_rhs => rw [← List.take_append_drop 31 runs]
    simp only [List.map_append, List.sum_append, List.map_cons, List.map_nil, List.sum_cons, List.sum_nil, Nat.add_zero]
  · rw [coalesce_few h]

theorem coalesce_getElem? {i : Nat} (hi : i < 31) : (coalesce runs)[i]? = runs[i]? := by
  rcases Nat.lt_or_ge 32 runs.length with h | h
  · rw [coalesce_many h, List.getElem?_append_left (by rw [List.length_take]; omega), List.getElem?_take_of_lt hi]
  · rw [coalesce_few h]

theorem coalesce_joined {a z : Run} (h : 32 < runs.length) (ha : runs[31]? = some a) (hz : runs.getLast? = some z) :
    (coalesce runs)[31]? = some ⟨a.lo, z.hi, ((runs.drop 31).map (·.raw)).sum⟩ := by
  have hlen : (runs.take 31).length = 31 := by rw [List.length_take]; omega
  rw [coalesce_many h, ha, hz, List.getElem?_append_right hlen.le, hlen]
  rfl

end coalesce

/-! ## Raw runs (R64) -/

/-- A raw run of the verdicts `g` from column `b` on: defects only, with none next to it. -/
structure IsRawRun (g : Nat → Option Bool) (b : Nat) (r : Run) : Prop where
  start : b ≤ r.lo
  order : r.lo ≤ r.hi
  count : r.raw = r.hi + 1 - r.lo
  defects : ∀ i, r.lo ≤ i → i ≤ r.hi → g i = some true
  before : r.lo = b ∨ g (r.lo - 1) = some false
  after : g (r.hi + 1) ≠ some true

section rawRuns

variable {g : Nat → Option Bool} {b x : Nat} {r : Run}

theorem Run.eq_iff {r q : Run} : r = q ↔ r.lo = q.lo ∧ r.hi = q.hi ∧ r.raw = q.raw := by
  cases r
  cases q
  simp

/-- From a column that is no defect on, the raw runs are those that begin behind it. -/
theorem isRawRun_of_clear (h : g x = some false) : IsRawRun g x r ↔ IsRawRun g (x + 1) r := by
  constructor
  · rintro ⟨start, order, count, defects, before, after⟩
    have hne : r.lo ≠ x := fun e => by simpa [e, h] using defects x e.le (e ▸ order)
    exact ⟨by omega, order, count, defects, .inr (before.resolve_left hne), after⟩
  · rintro ⟨start, order, count, defects, before, after⟩
    refine ⟨by omega, order, count, defects, .inr ?_, after⟩
    rcases before with e | e
    · rw [e]; exact h
    · exact e

/-- Defects from `b` up to before `x`, where there is none: one raw run, and those that begin behind `x`. -/
theorem isRawRun_of_stretch (hb : b < x) (hg : ∀ i, b ≤ i → i < x → g i = some true) (hx : g x ≠ some true) :
    IsRawRun g b r ↔ r = ⟨b, x - 1, x - b⟩ ∨ x < r.lo ∧ IsRawRun g b r := by
  constructor
  · intro h
    have hlo : r.lo = b ∨ x < r.lo := by
      by_contra hc
      have hclear := h.before.resolve_left fun e => hc (.inl e)
      have := h.start
      rw [hg (r.lo - 1) (by omega) (by omega)] at hclear
      cases hclear
    rcases hlo with e | e
    · have hle : r.hi < x := by
        by_contra hc
        exact hx (h.defects x (by omega) (by omega))
      have hge : ¬r.hi + 1 < x := fun hc => h.after (hg _ (by have := h.order; omega) hc)
      have := h.count
      exact .inl (Run.eq_iff.mpr ⟨e, by dsimp only; omega, by dsimp only; omega⟩)
    · exact .inr ⟨e, h⟩
  · rintro (rfl | ⟨-, h⟩)
    · have hback : x - 1 + 1 = x := by omega
      refine ⟨le_rfl, by dsimp only; omega, by dsimp only; omega, fun i h1 h2 => hg i h1 ?_, .inl rfl, ?_⟩
      · dsimp only at h2
        omega
      · dsimp only
        rwa [hback]
    · exact h

/-- A stretch of defects that a clear column ends. -/
theorem isRawRun_of_ended (hb : b < x) (hg : ∀ i, b ≤ i → i < x → g i = some true) (hx : g x = some false) :
    IsRawRun g b r ↔ r = ⟨b, x - 1, x - b⟩ ∨ IsRawRun g (x + 1) r := by
  rw [isRawRun_of_stretch hb hg (by simp [hx])]
  refine or_congr_right ⟨fun ⟨hlt, h⟩ => ?_, fun h => ?_⟩
  · exact ⟨hlt, h.order, h.count, h.defects, .inr (h.before.resolve_left (by omega)), h.after⟩
  · have := h.start
    refine ⟨this, by omega, h.order, h.count, h.defects, .inr ?_, h.after⟩
    rcases h.before with e | e
    · rw [e]
      exact hx
    · exact e

/-- A run in progress before column `x` consists of defects. -/
def InProgress (g : Nat → Option Bool) (x : Nat) (start : Option Nat) : Prop :=
  ∀ a, start = some a → a < x ∧ ∀ i, a ≤ i → i < x → g i = some true

theorem InProgress.none : InProgress g x none := fun _ h => by cases h

/-- A defect begins a run or continues the one in progress. -/
theorem InProgress.continues {start : Option Nat} (h : InProgress g x start) (hx : g x = some true) :
    InProgress g (x + 1) (some (start.getD x)) := by
  intro a ha
  obtain rfl : start.getD x = a := Option.some.inj ha
  cases start with
  | none =>
    refine ⟨Nat.lt_succ_self x, fun i h1 h2 => ?_⟩
    rwa [Nat.le_antisymm (Nat.le_of_lt_succ h2) h1]
  | some a =>
    obtain ⟨hlt, hrun⟩ := h a rfl
    refine ⟨Nat.lt_succ_of_lt hlt, fun i h1 h2 => ?_⟩
    rcases Nat.lt_succ_iff_lt_or_eq.mp h2 with h | rfl
    · exact hrun i h1 h
    · exact hx

/-- Behind the last column only the run in progress is left. -/
theorem mem_rawRuns_nil {start : Option Nat} (hend : ∀ i, x ≤ i → g i = none) (hstart : InProgress g x start) :
    r ∈ rawRuns x start [] ↔ IsRawRun g (start.getD x) r := by
  have hbegins : ∀ b, IsRawRun g b r → ¬x ≤ r.lo := fun b h hle => by
    have := h.defects r.lo le_rfl h.order
    rw [hend _ hle] at this
    cases this
  cases start with
  | none => exact ⟨fun h => (List.not_mem_nil h).elim, fun h => (hbegins x h h.start).elim⟩
  | some a =>
    obtain ⟨ha, hrun⟩ := hstart a rfl
    rw [rawRuns, List.mem_singleton, Option.getD_some, isRawRun_of_stretch ha hrun (by simp [hend x le_rfl])]
    exact (or_iff_left fun ⟨hlt, h⟩ => hbegins a h hlt.le).symm

/-- The raw runs of the verdicts from `x` on, with those before `x` back to the start of a run in progress. -/
theorem mem_rawRuns {cols : List Bool} {start : Option Nat} (hcols : ∀ k, cols[k]? = g (x + k))
    (hstart : InProgress g x start) : r ∈ rawRuns x start cols ↔ IsRawRun g (start.getD x) r := by
  induction cols generalizing x start with
  | nil =>
    refine mem_rawRuns_nil (fun i hi => ?_) hstart
    rw [← Nat.add_sub_cancel' hi, ← hcols]
    rfl
  | cons v rest ih =>
    have hx : g x = some v := (hcols 0).symm
    have hrest : ∀ k, rest[k]? = g (x + 1 + k) := fun k => by
      rw [Nat.add_right_comm, Nat.add_assoc, ← hcols]
      rfl
    cases v with
    | true => exact ih hrest (hstart.continues hx)
    | false =>
      have ih := ih hrest .none
      cases start with
      | none => rw [rawRuns, ih, Option.getD_none, Option.getD_none, isRawRun_of_clear hx]
      | some a =>
        obtain ⟨ha, hrun⟩ := hstart a rfl
        rw [rawRuns, List.mem_cons, ih, Option.getD_none, Option.getD_some, isRawRun_of_ended ha hrun hx]

/-- The raw runs of a line's verdicts from column `x` on. -/
theorem mem_rawRuns_line (cols : List Bool) : r ∈ rawRuns x none cols ↔ IsRawRun (fun i => cols[i - x]?) x r :=
  mem_rawRuns (fun k => by rw [Nat.add_sub_cancel_left]) .none

theorem rawRuns_start_le {cols : List Bool} (h : r ∈ rawRuns x none cols) : x ≤ r.lo :=
  ((mem_rawRuns_line cols).mp h).start

theorem rawRuns_apart {start : Option Nat} (cols : List Bool) (hstart : ∀ a, start = some a → a < x) :
    (rawRuns x start cols).Pairwise fun a b => a.hi + 1 < b.lo := by
  induction cols generalizing x start with
  | nil => cases start <;> simp [rawRuns]
  | cons v rest ih =>
    cases v with
    | true =>
      refine ih fun a h => ?_
      obtain rfl : start.getD x = a := Option.some.inj h
      cases start with
      | none => exact Nat.lt_succ_self x
      | some b => exact Nat.lt_succ_of_lt (hstart b rfl)
    | false =>
      cases start with
      | none => exact ih fun a h => by cases h
      | some a =>
        refine List.pairwise_cons.mpr ⟨fun r hr => ?_, ih fun a h => by cases h⟩
        have hlt := hstart a rfl
        have hle := rawRuns_start_le hr
        dsimp only
        omega

end rawRuns

/-! ## Merging (R65) -/

/-- The raw pixels of the runs that lie within one. -/
def rawWithin (m : Run) (runs : List Run) : Nat :=
  ((runs.filter fun r => decide (m.lo ≤ r.lo ∧ r.hi ≤ m.hi)).map (·.raw)).sum

theorem rawWithin_cons (m r : Run) (runs : List Run) :
    rawWithin m (r :: runs) = (if m.lo ≤ r.lo ∧ r.hi ≤ m.hi then r.raw else 0) + rawWithin m runs := by
  unfold rawWithin
  rw [List.filter_cons]
  by_cases h : m.lo ≤ r.lo ∧ r.hi ≤ m.hi <;> simp [h]

theorem rawWithin_eq_zero {m : Run} {runs : List Run} (h : ∀ r ∈ runs, m.hi < r.hi) : rawWithin m runs = 0 := by
  unfold rawWithin
  rw [List.filter_eq_nil_iff.mpr fun r hr => by have := h r hr; simp; omega]
  rfl

/-- The runs `ms` are the runs of a line merged: apart from each other, over the same columns, each with the raw
pixels of those within it. -/
structure Merged (runs ms : List Run) : Prop where
  apart : ms.Pairwise fun a b => a.hi + 1 < b.lo
  covers : ∀ x, (∃ m ∈ ms, m.lo ≤ x ∧ x ≤ m.hi) ↔ ∃ r ∈ runs, r.lo ≤ x ∧ x ≤ r.hi
  order : ∀ m ∈ ms, m.lo ≤ m.hi
  raw : ∀ m ∈ ms, m.raw = rawWithin m runs

/-- The first of the merged runs begins where the first run does, and contains it. -/
theorem mergeFrom_head (r : Run) (rest : List Run) :
    ∃ h later, mergeFrom r rest = h :: later ∧ h.lo = r.lo ∧ r.hi ≤ h.hi := by
  induction rest generalizing r with
  | nil => exact ⟨r, [], rfl, rfl, le_rfl⟩
  | cons q rest ih =>
    unfold mergeFrom
    split
    · obtain ⟨h, later, e, hlo, hhi⟩ := ih ⟨r.lo, max r.hi q.hi, r.raw + q.raw⟩
      exact ⟨h, later, e, hlo, (Nat.le_max_left ..).trans hhi⟩
    · exact ⟨r, _, rfl, rfl, le_rfl⟩

theorem Merged.lo_le {r : Run} {rest runs : List Run} (h : Merged runs (mergeFrom r rest)) {m : Run}
    (hm : m ∈ mergeFrom r rest) : r.lo ≤ m.lo := by
  obtain ⟨first, later, e, hlo, -⟩ := mergeFrom_head r rest
  have hap := h.apart
  have hor := h.order
  rw [e] at hm hap hor
  rcases List.mem_cons.mp hm with rfl | hm
  · exact hlo.ge
  · have := List.rel_of_pairwise_cons hap hm
    have := hor first List.mem_cons_self
    omega

/-- Two runs that overlap or touch merge as the one that spans them. -/
theorem Merged.of_join {r q : Run} {rest : List Run} (hr : r.lo ≤ r.hi) (hq : q.lo ≤ q.hi) (hs : r.lo ≤ q.lo)
    (ht : q.lo ≤ r.hi + 1)
    (h : Merged (⟨r.lo, max r.hi q.hi, r.raw + q.raw⟩ :: rest)
      (mergeFrom ⟨r.lo, max r.hi q.hi, r.raw + q.raw⟩ rest)) :
    Merged (r :: q :: rest) (mergeFrom ⟨r.lo, max r.hi q.hi, r.raw + q.raw⟩ rest) := by
  refine ⟨h.apart, fun x => ?_, h.order, fun m hm => ?_⟩
  · rw [h.covers]
    simp only [List.exists_mem_cons_iff]
    have : (r.lo ≤ x ∧ x ≤ max r.hi q.hi) ↔ (r.lo ≤ x ∧ x ≤ r.hi) ∨ q.lo ≤ x ∧ x ≤ q.hi := by omega
    rw [this, or_assoc]
  · rw [h.raw m hm, rawWithin_cons, rawWithin_cons, rawWithin_cons]
    obtain ⟨first, later, e, hlo, hhi⟩ := mergeFrom_head ⟨r.lo, max r.hi q.hi, r.raw + q.raw⟩ rest
    have hap := h.apart
    rw [e] at hm hap
    dsimp only at hlo hhi
    rcases List.mem_cons.mp hm with rfl | hm
    · rw [if_pos (by dsimp only; omega), if_pos (by omega), if_pos (by omega), Nat.add_assoc]
    · have := List.rel_of_pairwise_cons hap hm
      rw [if_neg (by dsimp only; omega), if_neg (by omega), if_neg (by omega), Nat.zero_add, Nat.zero_add]

/-- A run that no later one touches stands before the merged later ones. -/
theorem Merged.of_gap {r q : Run} {rest : List Run} (hr : r.lo ≤ r.hi) (hg : r.hi + 1 < q.lo)
    (hn : ∀ p ∈ q :: rest, p.lo ≤ p.hi) (hs : ∀ p ∈ q :: rest, q.lo ≤ p.lo)
    (h : Merged (q :: rest) (mergeFrom q rest)) : Merged (r :: q :: rest) (r :: mergeFrom q rest) := by
  refine ⟨List.pairwise_cons.mpr ⟨fun m hm => ?_, h.apart⟩, fun x => ?_, fun m hm => ?_, fun m hm => ?_⟩
  · exact Nat.lt_of_lt_of_le hg (h.lo_le hm)
  · rw [List.exists_mem_cons_iff, h.covers, List.exists_mem_cons_iff (l := q :: rest)]
  · rcases List.mem_cons.mp hm with rfl | hm
    · exact hr
    · exact h.order m hm
  · rw [rawWithin_cons]
    rcases List.mem_cons.mp hm with rfl | hm
    · rw [if_pos ⟨le_rfl, le_rfl⟩, rawWithin_eq_zero fun p hp => ?_, Nat.add_zero]
      have := hn p hp
      have := hs p hp
      omega
    · have := h.lo_le hm
      rw [if_neg (by omega), h.raw m hm, Nat.zero_add]

theorem mergeFrom_merged (r : Run) (rest : List Run) (hn : ∀ q ∈ r :: rest, q.lo ≤ q.hi)
    (hs : (r :: rest).Pairwise fun a b => a.lo ≤ b.lo) : Merged (r :: rest) (mergeFrom r rest) := by
  induction rest generalizing r with
  | nil =>
    refine ⟨List.pairwise_singleton _ _, fun x => Iff.rfl, hn, fun m hm => ?_⟩
    obtain rfl := List.mem_singleton.mp hm
    rw [rawWithin_cons, if_pos ⟨le_rfl, le_rfl⟩]
    rfl
  | cons q rest ih =>
    obtain ⟨hfirst, hlater⟩ := List.pairwise_cons.mp hs
    have hr := hn r List.mem_cons_self
    have hrest : ∀ p ∈ q :: rest, p.lo ≤ p.hi := fun p hp => hn p (List.mem_cons_of_mem r hp)
    have hq := hrest q List.mem_cons_self
    unfold mergeFrom
    split
    · rename_i ht
      refine Merged.of_join hr hq (hfirst q List.mem_cons_self) ht (ih _ (fun p hp => ?_) ?_)
      · rcases List.mem_cons.mp hp with rfl | hp
        · exact hr.trans (Nat.le_max_left ..)
        · exact hrest p (List.mem_cons_of_mem q hp)
      · exact List.pairwise_cons.mpr ⟨fun p hp => hfirst p (List.mem_cons_of_mem q hp),
          (List.pairwise_cons.mp hlater).2⟩
    · rename_i ht
      refine Merged.of_gap hr (Nat.lt_of_not_le ht) hrest (fun p hp => ?_) (ih q hrest hlater)
      rcases List.mem_cons.mp hp with rfl | hp
      · exact le_rfl
      · exact List.rel_of_pairwise_cons hlater hp

theorem mergeRuns_merged {runs : List Run} (hn : ∀ r ∈ runs, r.lo ≤ r.hi)
    (hs : runs.Pairwise fun a b => a.lo ≤ b.lo) : Merged runs (mergeRuns runs) := by
  cases runs with
  | nil => exact ⟨.nil, fun _ => Iff.rfl, fun _ h => (List.not_mem_nil h).elim, fun _ h => (List.not_mem_nil h).elim⟩
  | cons r rest => exact mergeFrom_merged r rest hn hs

end Sys2Proof.Machine

/-! PROOF. The stages of a line at the Defect Detector: ratios, run lists, masks, and regions that become READY (R62,
R67 to R69, R79, R80, R88). -/

namespace Sys2Proof.Machine

open Sys2Proof

/-! ## Ratios and run lists (R62, R67) -/

theorem isDefect_iff (u : Setup) (baseR baseIR : Nat) (p : Pixel) : isDefect u baseR baseIR p = true ↔
    min 1023 (min 65535 (p.ir.toNat + u.k * (baseR - p.r.toNat) / 256) * 256 / baseIR) < u.t :=
  decide_eq_true_iff

theorem enterHistory_eq (u : Setup) (h : List RunList) (n : Nat) (runs : List Run) :
    enterHistory u h n runs = (h.filter fun l => decide (n - 2 * u.d ≤ l.line)) ++ [⟨n, runs⟩] := by
  unfold enterHistory
  exact congrArg (· ++ _) (List.filter_congr fun l _ => decide_eq_decide.mpr Nat.sub_le_iff_le_add.symm)

/-- The run list enters the history, a joined one is charged, and nothing else changes (R66, R67). -/
theorem State.dfdRuns_eq (s : State) (n baseR baseIR : Nat) (px : List Pixel) : s.dfdRuns n baseR baseIR px =
    ((s.setFrd (if 32 < (lineRuns s.setup baseR baseIR px).length then s.frd.charge n Tally.addCoalesced
      else s.frd)).setDfd { s.dfd with
        history := (s.dfd.history.filter fun l => decide (n - 2 * s.setup.d ≤ l.line)) ++
          [⟨n, coalesce (lineRuns s.setup baseR baseIR px)⟩] }, coalesce (lineRuns s.setup baseR baseIR px)) := by
  rw [← enterHistory_eq]
  unfold State.dfdRuns
  dsimp only
  by_cases h : Config.runsPerLine < (lineRuns s.setup baseR baseIR px).length
  · rw [if_pos h, if_pos (show 32 < _ from h)]
    rfl
  · rw [if_neg h, if_neg (show ¬32 < _ from h)]
    rfl

/-! ## Masks (R68, R69) -/

theorem Run.has_iff (r : Run) (x : Nat) : r.has x = true ↔ r.lo ≤ x ∧ x ≤ r.hi := by
  simp [Run.has]

theorem maskOf_length (u : Setup) (h : List RunList) (j : Nat) : (maskOf u h j).length = u.w := by
  simp [maskOf]

/-- A column of a mask is set when a run of a line at most D away contains it. -/
theorem maskOf_getElem? (u : Setup) (h : List RunList) (j x : Nat) : (maskOf u h j)[x]? = some true ↔
    x < u.w ∧ ∃ l ∈ h, j ≤ l.line + u.d ∧ l.line ≤ j + u.d ∧ ∃ r ∈ l.runs, r.lo ≤ x ∧ x ≤ r.hi := by
  unfold maskOf
  rw [List.getElem?_map]
  rcases Nat.lt_or_ge x u.w with hx | hx
  · rw [List.getElem?_range hx]
    simp only [Option.map_some, Option.some.injEq, List.any_eq_true, List.mem_flatMap, List.mem_filter, Run.has_iff,
      Bool.and_eq_true, decide_eq_true_eq, hx, true_and]
    constructor
    · rintro ⟨r, ⟨l, ⟨hl, below, above⟩, hr⟩, hcol⟩
      exact ⟨l, hl, below, above, r, hr, hcol⟩
    · rintro ⟨l, hl, below, above, r, hr, hcol⟩
      exact ⟨r, ⟨l, ⟨hl, below, above⟩, hr⟩, hcol⟩
  · rw [List.getElem?_eq_none (by rwa [List.length_range])]
    exact ⟨fun h => (by cases h), fun h => absurd h.1 (Nat.not_lt.mpr hx)⟩

theorem writeMask_getElem? {mask : List Bool} {j i : Nat} {lines : List RingLine} {l : RingLine}
    (h : lines[i]? = some l) : (writeMask mask j lines)[i]? =
      some (if l.number = j then { l with mask := mask, final := true } else l) := by
  unfold writeMask
  rw [List.getElem?_map, h]
  rfl

/-! ## Lists of regions (R71) -/

section regions

variable {before after : List Region} {r q : Region}

theorem regions_eq_of_slot {l : List Region} (h : l.Pairwise fun a b => a.slot < b.slot) (hr : r ∈ l) (hq : q ∈ l)
    (e : r.slot = q.slot) : r = q := by
  refine List.Pairwise.forall_of_forall_of_flip (R := fun a b => a.slot = b.slot → a = b) (fun _ _ _ => rfl) ?_ ?_ hr hq e
  · exact h.imp fun hlt e => absurd e hlt.ne
  · exact h.imp fun hlt e => absurd e hlt.ne'

theorem regions_split_slots (h : (before ++ r :: after).Pairwise fun a b => a.slot < b.slot) :
    (∀ o ∈ before, o.slot < r.slot) ∧ ∀ o ∈ after, r.slot < o.slot := by
  obtain ⟨-, hafter, hcross⟩ := List.pairwise_append.mp h
  exact ⟨fun o ho => hcross o ho r List.mem_cons_self, fun o ho => List.rel_of_pairwise_cons hafter ho⟩

theorem regions_split_ne (h : (before ++ r :: after).Pairwise fun a b => a.slot < b.slot) :
    ∀ o ∈ before ++ after, o.slot ≠ r.slot := by
  obtain ⟨hb, ha⟩ := regions_split_slots h
  intro o ho
  rcases List.mem_append.mp ho with ho | ho
  · exact (hb o ho).ne
  · exact (ha o ho).ne'

/-- A change of the region in a slot. -/
theorem map_slot_split (edit : Region → Region) (h : ∀ o ∈ before ++ after, o.slot ≠ r.slot) :
    (before ++ r :: after).map (fun o => if o.slot = r.slot then edit o else o) = before ++ edit r :: after := by
  have same : ∀ l : List Region, (∀ o ∈ l, o.slot ≠ r.slot) →
      l.map (fun o => if o.slot = r.slot then edit o else o) = l := fun l hl =>
    (List.map_congr_left fun o ho => if_neg (hl o ho)).trans (List.map_id l)
  rw [List.map_append, List.map_cons, if_pos rfl, same before fun o ho => h o (List.mem_append_left _ ho),
    same after fun o ho => h o (List.mem_append_right _ ho)]

theorem setRegionState_split (st : RegionState) (h : ∀ o ∈ before ++ after, o.slot ≠ r.slot) :
    setRegionState r.slot st (before ++ r :: after) = before ++ { r with state := st, lastSpan := none } :: after :=
  map_slot_split _ h

theorem dropSlot_split (h : ∀ o ∈ before ++ after, o.slot ≠ r.slot) :
    dropSlot r.slot (before ++ r :: after) = before ++ after := by
  have same : ∀ l : List Region, (∀ o ∈ l, o.slot ≠ r.slot) → dropSlot r.slot l = l := fun l hl =>
    List.filter_eq_self.mpr fun o ho => decide_eq_true (hl o ho)
  have hb := same before fun o ho => h o (List.mem_append_left _ ho)
  have ha := same after fun o ho => h o (List.mem_append_right _ ho)
  unfold dropSlot at hb ha ⊢
  rw [List.filter_append, List.filter_cons_of_neg (by simp), hb, ha]

theorem find?_slot_split (h : ∀ o ∈ before ++ after, o.slot ≠ r.slot) :
    (before ++ r :: after).find? (fun o => o.slot = r.slot) = some r :=
  List.find?_eq_some_iff_append.mpr ⟨by simp, before, after, rfl, fun o ho => by
    simpa using h o (List.mem_append_left _ ho)⟩

end regions

/-! ## Regions that become READY (R79, R80, R88) -/

theorem insertByFirst_perm (r : Region) (l : List Region) : (insertByFirst r l).Perm (r :: l) := by
  induction l with
  | nil => exact .refl _
  | cons q rest ih =>
    unfold insertByFirst
    split
    · exact .refl _
    · exact (ih.cons q).trans (.swap r q rest)

/-- The order of R79: by first raw line, then by slot. -/
def Region.Earlier (a b : Region) : Prop := a.first < b.first ∨ a.first = b.first ∧ a.slot < b.slot

theorem insertByFirst_sorted {r : Region} {l : List Region} (hl : l.Pairwise Region.Earlier)
    (hslot : ∀ q ∈ l, q.slot < r.slot) : (insertByFirst r l).Pairwise Region.Earlier := by
  induction l with
  | nil => exact List.pairwise_singleton _ _
  | cons q rest ih =>
    obtain ⟨hq, hrest⟩ := List.pairwise_cons.mp hl
    have hqr := hslot q List.mem_cons_self
    unfold insertByFirst
    split
    · rename_i hlt
      refine List.pairwise_cons.mpr ⟨fun o ho => ?_, hl⟩
      rcases List.mem_cons.mp ho with rfl | ho
      · exact .inl hlt
      · have := hq o ho
        unfold Region.Earlier at this ⊢
        omega
    · rename_i hge
      refine List.pairwise_cons.mpr ⟨fun o ho => ?_, ih hrest fun o ho => hslot o (List.mem_cons_of_mem q ho)⟩
      rcases List.mem_cons.mp ((insertByFirst_perm r rest).subset ho) with rfl | ho
      · unfold Region.Earlier
        omega
      · exact hq o ho

/-- Insertion one by one, in slot order, keeps the regions and sorts them. -/
theorem foldl_insertByFirst {l acc : List Region} (hl : l.Pairwise fun a b => a.slot < b.slot)
    (hacc : acc.Pairwise Region.Earlier) (hslot : ∀ a ∈ acc, ∀ r ∈ l, a.slot < r.slot) :
    (l.foldl (fun acc r => insertByFirst r acc) acc).Perm (acc ++ l) ∧
    (l.foldl (fun acc r => insertByFirst r acc) acc).Pairwise Region.Earlier := by
  induction l generalizing acc with
  | nil => exact ⟨.of_eq (List.append_nil acc).symm, hacc⟩
  | cons r rest ih =>
    obtain ⟨hr, hrest⟩ := List.pairwise_cons.mp hl
    have hins := insertByFirst_perm r acc
    obtain ⟨hperm, hsorted⟩ := ih hrest
      (insertByFirst_sorted hacc fun a ha => hslot a ha r List.mem_cons_self) fun a ha o ho => by
        rcases List.mem_cons.mp (hins.subset ha) with rfl | ha
        · exact hr o ho
        · exact hslot a ha o (List.mem_cons_of_mem r ho)
    exact ⟨hperm.trans ((hins.append_right rest).trans List.perm_middle.symm), hsorted⟩

/-- The only arrangement of the regions in the order of R79. -/
theorem byFirst_eq {regions l : List Region} (hs : regions.Pairwise fun a b => a.slot < b.slot)
    (hp : l.Perm regions) (hl : l.Pairwise Region.Earlier) : byFirst regions = l := by
  obtain ⟨hperm, hsorted⟩ := foldl_insertByFirst hs (acc := []) .nil fun _ h => (List.not_mem_nil h).elim
  refine (hperm.trans hp.symm).eq_of_pairwise (fun a b _ _ hab hba => ?_) hsorted hl
  unfold Region.Earlier at hab hba
  omega

section makeReady

variable {s : State} {before after : List Region} {r : Region}

/-- With a repair under way a READY region joins the queue (R79, R88). -/
theorem State.makeReady_queued (hregions : s.dfd.regions = before ++ r :: after)
    (hne : ∀ o ∈ before ++ after, o.slot ≠ r.slot) (hon : s.setup.repair = true) (hbusy : s.rpe.current ≠ none) :
    s.makeReady r = (s.setDfd { s.dfd with
      regions := before ++ { r with state := .ready, lastSpan := none } :: after }).setRpe
        { s.rpe with queue := s.rpe.queue ++ [r.slot] } := by
  obtain ⟨e, he⟩ := Option.ne_none_iff_exists'.mp hbusy
  unfold State.makeReady
  rw [if_pos hon, hregions, setRegionState_split _ hne]
  unfold State.repairTake
  simp only [State.setRpe_rpe, State.setDfd_rpe, he]

/-- An IDLE engine takes a READY region at once (R88). -/
theorem State.makeReady_taken (hregions : s.dfd.regions = before ++ r :: after)
    (hne : ∀ o ∈ before ++ after, o.slot ≠ r.slot) (hon : s.setup.repair = true) (hidle : s.rpe.current = none)
    (hempty : s.rpe.queue = []) :
    s.makeReady r = (s.setDfd { s.dfd with
      regions := before ++ { r with state := .repairing, lastSpan := none } :: after }).setRpe
        ⟨[], some ⟨r.slot, r.first, r.last, r.cols⟩, 0, 0⟩ := by
  have hset := setRegionState_split (r := { r with state := .ready, lastSpan := none }) .repairing hne
  have htake := State.repairTake_head (t := (s.setDfd { s.dfd with
    regions := before ++ { r with state := .ready, lastSpan := none } :: after }).setRpe
      { s.rpe with queue := [r.slot] }) hidle rfl
        (find?_slot_split (r := { r with state := .ready, lastSpan := none }) hne)
  unfold State.makeReady
  simp only [if_pos hon, hregions, setRegionState_split _ hne, State.setDfd_rpe, hempty]
  exact htake.trans (congrArg (fun l => (s.setDfd { s.dfd with regions := l }).setRpe _) hset)

theorem State.endRegion_eq (s : State) (r : Region) (add : Tally → Tally) : s.endRegion r add =
    (s.setFrd (s.frd.charge r.first add)).setDfd { s.dfd with regions := dropSlot r.slot s.dfd.regions } := rfl

/-- With repair off a READY region ends (R79, R82). -/
theorem State.makeReady_ends (hregions : s.dfd.regions = before ++ r :: after)
    (hne : ∀ o ∈ before ++ after, o.slot ≠ r.slot) (hoff : s.setup.repair = false) :
    s.makeReady r = (s.setFrd (s.frd.charge r.first (Tally.addUnrepairable r.raw))).setDfd
      { s.dfd with regions := before ++ after } := by
  unfold State.makeReady
  rw [if_neg (by simp [hoff]), State.endRegion_eq, hregions, dropSlot_split hne]

end makeReady

/-! ## The line as a whole (R61, R78, R80) -/

theorem Region.settleLine_eq (r : Region) : r.settleLine = if r.state = .opened then
    (if r.gathered = none then { r with state := .closing, lastSpan := none }
      else { r with lastSpan := r.gathered, gathered := none })
    else r := by
  unfold Region.settleLine
  cases hg : r.gathered <;> rfl

/-- The masks not yet written at the scan's last line are those of the lines from the next mask line on. -/
theorem State.dfdLast_eq (s : State) (n : Nat) :
    s.dfdLast n = (((List.range' s.dfd.nextMask (n + 1 - s.dfd.nextMask)).foldl State.maskLine s).setDfd
      { ((List.range' s.dfd.nextMask (n + 1 - s.dfd.nextMask)).foldl State.maskLine s).dfd with
        history := [] }).makeAllReady
          (((List.range' s.dfd.nextMask (n + 1 - s.dfd.nextMask)).foldl State.maskLine s).dfd.regions.filter fun r =>
            decide (r.state = .opened ∨ r.state = .closing)) := by
  simp only [List.range'_eq_map_range, Bool.decide_or]
  rfl

end Sys2Proof.Machine

/-! PROOF. Regions tracked from line to line: a run creates one, joins one, or merges several (R72 to R77). -/

namespace Sys2Proof.Machine

open Sys2Proof

/-! ## Test spans (R72) -/

theorem mem_testSpans {regions : List Region} {t : TestSpan} : t ∈ testSpans regions ↔
    ∃ r ∈ regions, r.state = .opened ∧ r.lastSpan = some t.span ∧ r.slot = t.slot := by
  unfold testSpans
  rw [List.mem_filterMap]
  refine exists_congr fun r => and_congr_right fun _ => ?_
  by_cases h : r.state = .opened
  · rw [if_pos h, Option.map_eq_some_iff]
    cases t
    simp [h]
  · simp [h]

theorem metRegions_eq {regions : List Region} {tests : List TestSpan} {run : Run} {met : Region → Bool}
    (hmet : ∀ r, met r = true ↔ ∃ t ∈ tests, t.slot = r.slot ∧ run.lo ≤ t.span.hi + 1 ∧ t.span.lo ≤ run.hi + 1) :
    metRegions regions tests run = regions.filter met := by
  refine List.filter_congr fun r _ => Bool.eq_iff_iff.mpr ?_
  simp [hmet, TestSpan.meets]

/-! ## Slots (R71, R73) -/

section slots

variable {regions before after : List Region} {r q : Region}

theorem firstFree_eq_some {slot : Nat} (hslot : slot ≤ 63) (hused : ∀ k, k < slot → ∃ r ∈ regions, r.slot = k)
    (hfree : ∀ r ∈ regions, r.slot ≠ slot) : firstFree regions = some slot := by
  unfold firstFree
  rw [List.find?_range_eq_some]
  refine ⟨by simpa using hfree, List.mem_range.mpr (Nat.lt_succ_of_le hslot), fun k hk => ?_⟩
  simpa using hused k hk

theorem firstFree_eq_none (hused : ∀ k, k < 64 → ∃ r ∈ regions, r.slot = k) : firstFree regions = none := by
  unfold firstFree
  rw [List.find?_range_eq_none]
  intro k hk
  simpa using hused k hk

theorem putRegion_behind (hb : ∀ o ∈ before, o.slot < r.slot) :
    putRegion r (before ++ after) = before ++ putRegion r after := by
  induction before with
  | nil => rfl
  | cons o rest ih =>
    exact (if_pos (hb o List.mem_cons_self)).trans
      (congrArg (o :: ·) (ih fun x hx => hb x (List.mem_cons_of_mem o hx)))

theorem putRegion_new (hb : ∀ o ∈ before, o.slot < r.slot) (ha : ∀ o ∈ after, r.slot < o.slot) :
    putRegion r (before ++ after) = before ++ r :: after := by
  rw [putRegion_behind hb]
  cases after with
  | nil => rfl
  | cons o rest =>
    have := ha o List.mem_cons_self
    rw [putRegion, if_neg (by omega), if_neg (by omega)]

theorem putRegion_again (hb : ∀ o ∈ before, o.slot < r.slot) (e : q.slot = r.slot) :
    putRegion r (before ++ q :: after) = before ++ r :: after := by
  rw [putRegion_behind hb, putRegion, if_neg e.not_lt, if_pos e]

end slots

/-! ## Merged regions (R75) -/

/-- The order in which the survivor of a merge is found: by first raw line, then by slot. -/
def Region.Oldest (m : Region) (l : List Region) : Prop :=
  ∀ o ∈ l, m.first < o.first ∨ m.first = o.first ∧ m.slot ≤ o.slot

theorem survivor_oldest (r : Region) (l : List Region) (h : (r :: l).Pairwise fun a b => a.slot < b.slot) :
    (survivor r l).Oldest (r :: l) := by
  unfold survivor
  induction l generalizing r with
  | nil =>
    intro o ho
    rw [List.mem_singleton.mp ho]
    exact .inr ⟨rfl, le_rfl⟩
  | cons q rest ih =>
    obtain ⟨hr, hq⟩ := List.pairwise_cons.mp h
    have hrq := hr q List.mem_cons_self
    rw [List.foldl_cons]
    by_cases hlt : q.first < r.first
    · rw [if_pos hlt]
      have old := ih q hq
      intro o ho
      rcases List.mem_cons.mp ho with rfl | ho
      · have := old q List.mem_cons_self
        omega
      · exact old o ho
    · rw [if_neg hlt]
      have old := ih r (List.pairwise_cons.mpr ⟨fun o ho => hr o (List.mem_cons_of_mem q ho),
        (List.pairwise_cons.mp hq).2⟩)
      intro o ho
      rcases List.mem_cons.mp ho with rfl | ho
      · exact old o List.mem_cons_self
      · rcases List.mem_cons.mp ho with rfl | ho
        · have := old r List.mem_cons_self
          omega
        · exact old o (List.mem_cons_of_mem r ho)

theorem survivor_eq {m r : Region} {l : List Region} (h : (r :: l).Pairwise fun a b => a.slot < b.slot)
    (hm : m ∈ r :: l) (old : m.Oldest (r :: l)) : survivor r l = m := by
  have h1 := old _ (survivor_mem r l)
  have h2 := survivor_oldest r l h m hm
  exact regions_eq_of_slot h (survivor_mem r l) hm (by omega)

theorem Span.foldl_join (l : List Span) (x : Span) : l.foldl Span.join x =
    ⟨l.foldl (fun a y => min a y.lo) x.lo, l.foldl (fun a y => max a y.hi) x.hi⟩ := by
  induction l generalizing x with
  | nil => rfl
  | cons y rest ih => exact ih (x.join y)

theorem Span.join_comm (x y : Span) : x.join y = y.join x := by
  simp only [Span.join, Nat.min_comm x.lo, Nat.max_comm x.hi]

theorem Span.join_assoc (x y z : Span) : (x.join y).join z = x.join (y.join z) := by
  simp only [Span.join, Nat.min_assoc, Nat.max_assoc]

theorem Span.join_right_comm (x y z : Span) : (x.join y).join z = (x.join z).join y := by
  rw [Span.join_assoc, Span.join_comm y, ← Span.join_assoc]

/-- The interval that spans all may begin with any of them. -/
theorem Span.foldl_join_join (l : List Span) (x y : Span) : (l.foldl Span.join x).join y = (x :: l).foldl Span.join y := by
  induction l generalizing x with
  | nil => exact Span.join_comm x y
  | cons z rest ih => rw [List.foldl_cons, ih, List.foldl_cons, List.foldl_cons, List.foldl_cons, Span.join_assoc]

theorem Span.foldl_join_perm {l k : List Span} (h : l.Perm k) (x : Span) :
    l.foldl Span.join x = k.foldl Span.join x :=
  h.foldl_eq (rcomm := ⟨Span.join_right_comm⟩) x

section absorb

variable (l : List Region) (m : Region)

theorem foldl_absorb_cols : (l.foldl Region.absorb m).cols = (l.map (·.cols)).foldl Span.join m.cols := by
  induction l generalizing m with
  | nil => rfl
  | cons q rest ih => exact ih (m.absorb q)

theorem foldl_absorb_raw : (l.foldl Region.absorb m).raw = ((m :: l).map (·.raw)).sum := by
  induction l generalizing m with
  | nil => rfl
  | cons q rest ih =>
    rw [List.foldl_cons, ih]
    exact Nat.add_assoc m.raw q.raw _

theorem foldl_absorb_gathered (x : Span) : gather (l.foldl Region.absorb m).gathered x =
    some (((m :: l).filterMap (·.gathered)).foldl Span.join x) := by
  induction l generalizing m with
  | nil =>
    cases h : m.gathered with
    | none => simp [gather, h]
    | some g => simp [gather, h, Span.join_comm g]
  | cons q rest ih =>
    rw [List.foldl_cons, ih]
    cases h : m.gathered <;> cases k : q.gathered <;> simp [Region.absorb, gather, h, k, Span.join_assoc]

/-- A merge takes columns, gathered span and raw pixels from the others, and the rest from the survivor. -/
theorem foldl_absorb_eq : l.foldl Region.absorb m = { m with
    cols := (l.foldl Region.absorb m).cols
    gathered := (l.foldl Region.absorb m).gathered
    raw := (l.foldl Region.absorb m).raw } := by
  induction l generalizing m with
  | nil => rfl
  | cons q rest ih => exact ih (m.absorb q)

end absorb

/-- The survivor of a merge of the regions `ms` by a run of line `n` (R75). -/
def Region.merged (m : Region) (ms : List Region) (n : Nat) (run : Run) : Region :=
  { m with
    last := n
    cols := ⟨ms.foldl (fun a o => min a o.cols.lo) run.lo, ms.foldl (fun a o => max a o.cols.hi) run.hi⟩
    gathered := some ⟨(ms.filterMap (·.gathered)).foldl (fun a g => min a g.lo) run.lo,
      (ms.filterMap (·.gathered)).foldl (fun a g => max a g.hi) run.hi⟩
    raw := (ms.map (·.raw)).sum + run.raw }

theorem Region.merged_eq {m : Region} {ms others : List Region} (h : ms.Perm (m :: others)) (n : Nat) (run : Run) :
    (others.foldl Region.absorb m).joined n run = m.merged ms n run := by
  have hcols : (others.foldl Region.absorb m).cols.join ⟨run.lo, run.hi⟩ =
      (ms.map (·.cols)).foldl Span.join ⟨run.lo, run.hi⟩ := by
    rw [foldl_absorb_cols, Span.foldl_join_join, Span.foldl_join_perm (h.map _)]
    rfl
  have hgathered : gather (others.foldl Region.absorb m).gathered ⟨run.lo, run.hi⟩ =
      some ((ms.filterMap (·.gathered)).foldl Span.join ⟨run.lo, run.hi⟩) := by
    rw [foldl_absorb_gathered, Span.foldl_join_perm (h.filterMap _)]
  have hraw : (others.foldl Region.absorb m).raw = (ms.map (·.raw)).sum := by
    rw [foldl_absorb_raw, (h.map _).sum_eq]
  unfold Region.joined Region.merged
  rw [hcols, hgathered, hraw, Span.foldl_join, Span.foldl_join, List.foldl_map, List.foldl_map, foldl_absorb_eq]

/-! ## A region is put back (R74, R76) -/

section keepRegion

variable {s : State} {tests : List TestSpan} {r : Region}

theorem State.keepRegion_low (h : r.last + 1 - r.first ≤ 64) :
    s.keepRegion tests r = (s.setDfd { s.dfd with regions := putRegion r s.dfd.regions }, tests) :=
  if_neg (Nat.not_lt.mpr h)

theorem State.keepRegion_tall (h : 64 < r.last + 1 - r.first) :
    s.keepRegion tests r = (s.endRegion r (Tally.addUnrepairable r.raw), tests.filter fun t => t.slot ≠ r.slot) :=
  if_pos h

end keepRegion

/-! ## A run is tracked (R72 to R77) -/

section trackRun

variable {s : State} {tests : List TestSpan} {run : Run} {n slot : Nat} {before after ms : List Region} {r m : Region}

/-- A run that meets no region creates one in the lowest empty slot (R73). -/
theorem State.trackRun_creates (hmet : metRegions s.dfd.regions tests run = [])
    (hfree : firstFree s.dfd.regions = some slot) : State.trackRun n (s, tests) run =
      (s.setDfd { s.dfd with regions := putRegion (Region.fresh slot n run) s.dfd.regions }, tests) := by
  unfold State.trackRun
  simp only [hmet, hfree]

/-- With no empty slot it is left untracked (R77). -/
theorem State.trackRun_untracked (hmet : metRegions s.dfd.regions tests run = [])
    (hfree : firstFree s.dfd.regions = none) : State.trackRun n (s, tests) run =
      ((s.setFrd (s.frd.charge n Tally.addUntracked)).raise .regionTableFull, tests) := by
  unfold State.trackRun
  simp only [hmet, hfree]

/-- A run that meets one region joins it (R74). -/
theorem State.trackRun_joins (hmet : metRegions s.dfd.regions tests run = [r]) :
    State.trackRun n (s, tests) run = s.keepRegion tests (r.joined n run) := by
  unfold State.trackRun
  simp only [hmet]

/-- Test spans count for the survivor of a merge (R75). -/
def movedTests (m : Region) (ms : List Region) (tests : List TestSpan) : List TestSpan :=
  tests.map fun t =>
    if ms.any fun o => decide (o.slot ≠ m.slot ∧ o.slot = t.slot) then { t with slot := m.slot } else t

/-- A run that meets several regions merges them into the oldest (R75). -/
theorem State.trackRun_merges (hmet : metRegions s.dfd.regions tests run = ms) (htwo : 2 ≤ ms.length)
    (hs : ms.Pairwise fun a b => a.slot < b.slot) (hm : m ∈ ms) (old : m.Oldest ms) :
    State.trackRun n (s, tests) run = (s.setDfd { s.dfd with
      regions := s.dfd.regions.filter fun q => (dropSlot m.slot ms).all fun o => o.slot ≠ q.slot }).keepRegion
        (movedTests m ms tests) (m.merged ms n run) := by
  obtain ⟨before, after, hsplit⟩ := List.append_of_mem hm
  have hothers : ms.Perm (m :: dropSlot m.slot ms) := by
    rw [hsplit] at hs ⊢
    rw [dropSlot_split (regions_split_ne hs)]
    exact List.perm_middle
  have hmoved : movedTests m ms tests = tests.map fun t =>
      if (dropSlot m.slot ms).any fun o => o.slot = t.slot then { t with slot := m.slot } else t := by
    simp only [movedTests, dropSlot, List.any_filter, Bool.decide_and]
  rw [hmoved, ← Region.merged_eq hothers]
  obtain ⟨a, b, rest, rfl⟩ : ∃ a b rest, ms = a :: b :: rest :=
    match ms, htwo with
    | a :: b :: rest, _ => ⟨a, b, rest, rfl⟩
  obtain rfl := survivor_eq hs hm old
  unfold State.trackRun
  simp only [hmet]
  rfl

end trackRun

/-! ## The regions that a merge leaves (R75, R76) -/

section merge

variable {regions : List Region} {met : Region → Bool} {m q : Region}

theorem merge_keeps (hs : regions.Pairwise fun a b => a.slot < b.slot) :
    (regions.filter fun o => (dropSlot m.slot (regions.filter met)).all fun p => p.slot ≠ o.slot) =
      regions.filter fun o => !met o || decide (o.slot = m.slot) := by
  refine List.filter_congr fun o ho => Bool.eq_iff_iff.mpr ?_
  rw [List.all_eq_true]
  constructor
  · intro h
    by_contra hc
    obtain ⟨hmet, hne⟩ : met o = true ∧ o.slot ≠ m.slot := by simpa using hc
    have := h o (List.mem_filter.mpr ⟨List.mem_filter.mpr ⟨ho, hmet⟩, decide_eq_true hne⟩)
    simp at this
  · intro h p hp
    obtain ⟨hmem, hne⟩ := List.mem_filter.mp hp
    obtain ⟨hreg, hmet⟩ := List.mem_filter.mp hmem
    refine decide_eq_true fun e => ?_
    obtain rfl := regions_eq_of_slot hs hreg ho e
    simp [hmet] at h hne
    exact hne h

theorem putRegion_survivor (hs : regions.Pairwise fun a b => a.slot < b.slot) (hm : m ∈ regions)
    (e : q.slot = m.slot) : putRegion q regions = regions.map fun o => if o.slot = m.slot then q else o := by
  obtain ⟨before, after, rfl⟩ := List.append_of_mem hm
  rw [map_slot_split (fun _ => q) (regions_split_ne hs),
    putRegion_again (fun o ho => e ▸ (regions_split_slots hs).1 o ho) e.symm]

theorem dropSlot_survivor (hs : regions.Pairwise fun a b => a.slot < b.slot) (hm : m ∈ regions.filter met) :
    dropSlot m.slot (regions.filter fun o => !met o || decide (o.slot = m.slot)) = regions.filter fun o => !met o := by
  obtain ⟨hreg, hmet⟩ := List.mem_filter.mp hm
  unfold dropSlot
  rw [List.filter_filter]
  refine List.filter_congr fun o ho => ?_
  by_cases h : o.slot = m.slot
  · obtain rfl := regions_eq_of_slot hs ho hreg h
    simp [hmet]
  · simp [h]

end merge

end Sys2Proof.Machine

/-! PROOF. Defects are masked and tracked (O53). -/

namespace Sys2Proof.Machine

open Sys2Proof

/-! ## What becomes of a run (R73 to R77) -/

section run

variable {s : State} {n slot : Nat} {run : Run} {tests : List TestSpan} {met : Region → Bool}
  {before after : List Region} {r m : Region}

theorem metRegions_nil (hmet : metRegions s.dfd.regions tests run = s.dfd.regions.filter met)
    (hnone : ∀ r ∈ s.dfd.regions, met r = false) : metRegions s.dfd.regions tests run = [] :=
  hmet.trans (List.filter_eq_nil_iff.mpr fun r hr => by simp [hnone r hr])

theorem metRegions_singleton (hmet : metRegions s.dfd.regions tests run = s.dfd.regions.filter met)
    (hsplit : s.dfd.regions = before ++ r :: after) (hr : met r = true)
    (hothers : ∀ o ∈ before ++ after, met o = false) : metRegions s.dfd.regions tests run = [r] := by
  have hb : before.filter met = [] := List.filter_eq_nil_iff.mpr fun o ho => by
    simp [hothers o (List.mem_append_left _ ho)]
  have ha : after.filter met = [] := List.filter_eq_nil_iff.mpr fun o ho => by
    simp [hothers o (List.mem_append_right _ ho)]
  rw [hmet, hsplit, List.filter_append, List.filter_cons_of_pos hr, hb, ha]
  rfl

theorem State.trackRun_new (hmet : metRegions s.dfd.regions tests run = [])
    (hsplit : s.dfd.regions = before ++ after) (hslot : slot ≤ 63)
    (hused : ∀ k, k < slot → ∃ r ∈ s.dfd.regions, r.slot = k) (hb : ∀ r ∈ before, r.slot < slot)
    (ha : ∀ r ∈ after, slot < r.slot) : State.trackRun n (s, tests) run =
      (s.setDfd { s.dfd with regions := before ++ Region.fresh slot n run :: after }, tests) := by
  have hfree : ∀ r ∈ s.dfd.regions, r.slot ≠ slot := fun r hr => by
    rw [hsplit] at hr
    rcases List.mem_append.mp hr with h | h
    · exact (hb r h).ne
    · exact (ha r h).ne'
  rw [State.trackRun_creates hmet (firstFree_eq_some hslot hused hfree), hsplit,
    putRegion_new (r := Region.fresh slot n run) hb ha]

section joined

variable (hs : s.dfd.regions.Pairwise fun a b => a.slot < b.slot)
  (hmet : metRegions s.dfd.regions tests run = [r]) (hsplit : s.dfd.regions = before ++ r :: after)
include hs hmet hsplit

/-- A region of at most 64 lines keeps its slot (R74). -/
theorem State.trackRun_joined (hlow : n + 1 - r.first ≤ 64) : State.trackRun n (s, tests) run =
    (s.setDfd { s.dfd with regions := before ++ r.joined n run :: after }, tests) := by
  rw [hsplit] at hs
  have hput : putRegion (r.joined n run) (before ++ r :: after) = before ++ r.joined n run :: after :=
    putRegion_again (regions_split_slots hs).1 rfl
  rw [State.trackRun_joins hmet, State.keepRegion_low hlow, hsplit, hput]

/-- A taller one ends, and its test spans with it (R76). -/
theorem State.trackRun_joined_tall (htall : 64 < n + 1 - r.first) : State.trackRun n (s, tests) run =
    ((s.setFrd (s.frd.charge r.first (Tally.addUnrepairable (r.raw + run.raw)))).setDfd
      { s.dfd with regions := before ++ after }, tests.filter fun t => t.slot ≠ r.slot) := by
  rw [hsplit] at hs
  have hdrop : dropSlot (r.joined n run).slot (before ++ r :: after) = before ++ after :=
    dropSlot_split (regions_split_ne hs)
  rw [State.trackRun_joins hmet, State.keepRegion_tall htall, State.endRegion_eq, hsplit, hdrop]
  rfl

end joined

section merged

variable (hs : s.dfd.regions.Pairwise fun a b => a.slot < b.slot)
  (hmet : metRegions s.dfd.regions tests run = s.dfd.regions.filter met)
  (htwo : 2 ≤ (s.dfd.regions.filter met).length) (hm : m ∈ s.dfd.regions.filter met)
  (old : m.Oldest (s.dfd.regions.filter met))
include hs hmet htwo hm old

/-- The survivor of a merge of at most 64 lines keeps its slot, and the others leave theirs (R75). -/
theorem State.trackRun_merged (hlow : n + 1 - m.first ≤ 64) : State.trackRun n (s, tests) run =
    (s.setDfd { s.dfd with
      regions := (s.dfd.regions.filter fun o => !met o || decide (o.slot = m.slot)).map fun o =>
        if o.slot = m.slot then m.merged (s.dfd.regions.filter met) n run else o },
      movedTests m (s.dfd.regions.filter met) tests) := by
  have hmem : m ∈ s.dfd.regions.filter fun o => !met o || decide (o.slot = m.slot) :=
    List.mem_filter.mpr ⟨(List.mem_filter.mp hm).1, by simp⟩
  rw [State.trackRun_merges hmet htwo (hs.filter met) hm old, merge_keeps hs, State.keepRegion_low hlow,
    ← putRegion_survivor (q := m.merged (s.dfd.regions.filter met) n run) (hs.filter _) hmem rfl]
  rfl

/-- A taller one ends, and its test spans with it (R75, R76). -/
theorem State.trackRun_merged_tall (htall : 64 < n + 1 - m.first) : State.trackRun n (s, tests) run =
    ((s.setFrd (s.frd.charge m.first
      (Tally.addUnrepairable (m.merged (s.dfd.regions.filter met) n run).raw))).setDfd
        { s.dfd with regions := s.dfd.regions.filter fun o => !met o },
      (movedTests m (s.dfd.regions.filter met) tests).filter fun t => t.slot ≠ m.slot) := by
  rw [State.trackRun_merges hmet htwo (hs.filter met) hm old, merge_keeps hs, State.keepRegion_tall htall,
    State.endRegion_eq, ← dropSlot_survivor hs hm]
  rfl

end merged

end run

/-- Settles O53: each stage of a line by the lemma that says what it leaves. -/
theorem defectsAreMaskedAndTracked : Obligations.DefectsAreMaskedAndTracked := by
  refine ⟨?join, isDefect_iff, ?raw, ?merge, ?list, ?mask, fun _ _ => mem_testSpans, ?track, ?line, ?last, ?order,
    ?ready⟩
  case join =>
    intro runs
    refine ⟨coalesce_length_le runs, coalesce_raw runs, coalesce_few, fun i => coalesce_getElem?, fun a z h ha hz => ?_⟩
    exact ⟨_, coalesce_joined h ha hz, rfl, rfl⟩
  case raw =>
    rintro x cols _ rfl
    refine ⟨rawRuns_apart cols fun a h => (by cases h), fun r => (mem_rawRuns_line cols).trans ?_⟩
    exact ⟨fun ⟨start, order, count, defects, before, after⟩ => ⟨start, order, count, defects, before, after⟩,
      fun ⟨start, order, count, defects, before, after⟩ => ⟨start, order, count, defects, before, after⟩⟩
  case merge =>
    rintro runs _ rfl hn hs
    have h := mergeRuns_merged hn hs
    exact ⟨h.apart, h.covers, fun m hm => ⟨h.order m hm, h.raw m hm⟩⟩
  case list =>
    intro s t n baseR baseIR px found runs hfound h
    obtain rfl : found = lineRuns s.setup baseR baseIR px := hfound
    rw [State.dfdRuns_eq, Prod.mk.injEq] at h
    obtain ⟨rfl, rfl⟩ := h
    refine ⟨rfl, rfl, fun hfew => if_neg (Nat.not_lt.mpr hfew), fun hmany => ?_, rfl⟩
    simp only [State.setDfd_frd, State.setFrd_frd, if_pos hmany]
    exact Frd.charge_charged _ _ _
  case mask =>
    rintro s _ j rfl
    refine ⟨rfl, rfl, List.length_map _, fun i l hl => ?_⟩
    have hwrite := writeMask_getElem? (mask := maskOf s.setup s.dfd.history j) (j := j) hl
    refine ⟨fun hne => hwrite.trans (by rw [if_neg hne]), fun heq => ?_⟩
    rw [if_pos heq] at hwrite
    exact ⟨_, hwrite, heq, rfl, rfl, maskOf_length .., fun x => maskOf_getElem? ..⟩
  case track =>
    intro s n run tests met hs hmet
    have hfilter : metRegions s.dfd.regions tests run = s.dfd.regions.filter met := metRegions_eq hmet
    refine ⟨fun hnone => ⟨fun slot before after => ?new, fun hfull => ?full⟩,
      fun before r after q hsplit hr hothers hq => ?one, ?many⟩
    case new => exact State.trackRun_new (metRegions_nil hfilter hnone)
    case full =>
      exact ⟨_, Frd.charge_charged _ _ _,
        State.trackRun_untracked (metRegions_nil hfilter hnone) (firstFree_eq_none hfull)⟩
    case one =>
      have hone := metRegions_singleton hfilter hsplit hr hothers
      obtain rfl : q = r.joined n run := by
        rw [hq, Region.joined]
        cases r.gathered <;> rfl
      exact ⟨State.trackRun_joined hs hone hsplit,
        fun htall => ⟨_, Frd.charge_charged _ _ _, State.trackRun_joined_tall hs hone hsplit htall⟩⟩
    case many =>
      rintro _ m _ _ rfl htwo hm old rfl rfl
      exact ⟨State.trackRun_merged hs hfilter htwo hm old,
        fun htall => ⟨_, Frd.charge_charged _ _ _, State.trackRun_merged_tall hs hfilter htwo hm old htall⟩⟩
  case line =>
    rintro s t _ _ _ _ n baseR baseIR px runs hruns rfl rfl rfl rfl
    simp only [← Region.settleLine_eq, Bool.decide_and]
    unfold State.dfdLine
    rw [← hruns]
    rfl
  case last =>
    rintro s _ n rfl
    exact s.dfdLast_eq n
  case order =>
    rintro s _ regions l hs hp hl rfl
    rw [← repairGrade_eq, State.makeAllReady, byFirst_eq hs hp hl]
    rfl
  case ready =>
    intro s before after r hregions hne
    refine ⟨State.makeReady_queued hregions hne, State.makeReady_taken hregions hne, fun hoff => ?_⟩
    exact ⟨_, Frd.charge_charged _ _ _, State.makeReady_ends hregions hne hoff⟩

end Sys2Proof.Machine

/-! PROOF. PROFILE (O22). -/

namespace Sys2Proof.Machine

open Sys2Proof

/-- A command whose form is refused is answered with what its kind gives for that. -/
theorem Ready.badForm {s : State} (h : Ready s) {k : Kind} {tag : Byte} {p : List Byte}
    (hl : p.length ≤ Config.receiveLimit) (h1 : s.refusesNow k = false) (h2 : k.formOk p = false) :
    Replied s (s.commandRow k.code tag p) ⟨replyKind k.code, tag, k.formReply p⟩ := by
  rw [State.commandRow_fits s hl]
  exact State.recordArrives_replied h (State.judgeRecord_form (kindOf_code k) h1 h2) h.noReset

/-- The choices that a PROFILE payload names (R195, R196, R197). -/
theorem profile_formOk_iff {p : List Byte} (hl : p.length = 10) :
    Kind.profile.formOk p = true ↔ u8 p 0 ≤ 1 ∧ (u8 p 1 = 16 ∨ u8 p 1 = 8) ∧ u8 p 2 ≤ 1 := by
  simp [Kind.formOk, Kind.length, Kind.choicesOk, flagAt, hl, and_assoc]

theorem widthOk_iff (fw : Nat) : widthOk fw = true ↔ fw = 0 ∨ (fw % 2 = 0 ∧ 16 ≤ fw ∧ fw ≤ 8192) := by
  simp [widthOk, and_assoc]

/-- Settles O22: refused by its form, refused by its width, or taken. -/
theorem profileWaitsInThePendingSlot : Obligations.ProfileWaitsInThePendingSlot := by
  rintro tag p s _ hr hl rfl
  have hfits : p.length ≤ Config.receiveLimit := by simp [hl, Config.receiveLimit]
  have hfree : s.refusesNow .profile = false := refusesNow_eq_false rfl (.inl rfl)
  refine ⟨s.commandRow Kind.profile.code tag p, rfl, ?_⟩
  by_cases hform : Kind.profile.formOk p = true
  · obtain ⟨channels, depth, mirror⟩ := (profile_formOk_iff hl).mp hform
    by_cases hwidth : widthOk (profileOf p).fw = true
    · rw [if_pos ⟨channels, depth, mirror, (widthOk_iff _).mp hwidth⟩]
      exact hr.taken hfits hfree hform (if_pos hwidth) hr.noReset
    · rw [if_neg fun h => hwidth ((widthOk_iff _).mpr h.2.2.2)]
      exact hr.taken hfits hfree hform (if_neg hwidth) hr.noReset
  · rw [if_neg fun h => hform ((profile_formOk_iff hl).mpr ⟨h.1, h.2.1, h.2.2.1⟩)]
    exact hr.badForm hfits hfree (Bool.eq_false_iff.mpr hform)

end Sys2Proof.Machine

/-! PROOF. A completed probe: the lateral edges, the format test and the rectangle (R46 to R49, R112, R113). -/

namespace Sys2Proof.Machine

open Sys2Proof

/-! ## Eight columns in a row (R46) -/

/-- The eight columns from index `k` on are image-like. -/
def EightFrom (cols : List Bool) (k : Nat) : Prop := ∀ i, i < 8 → cols[k + i]? = some true

theorem eightFrom_head_iff (b : Bool) (rest : List Bool) :
    (b && decide (7 ≤ rest.length) && (rest.take 7).all id) = true ↔ EightFrom (b :: rest) 0 := by
  simp only [Bool.and_eq_true, decide_eq_true_eq, List.all_eq_true]
  constructor
  · rintro ⟨⟨rfl, hlen⟩, hall⟩ i hi
    cases i with
    | zero => rfl
    | succ i =>
      have hget : rest[i]? = some rest[i] := List.getElem?_eq_getElem (by omega)
      have htrue : rest[i] = true := hall _ (List.mem_take_iff_getElem.mpr ⟨i, by omega, rfl⟩)
      simpa [htrue] using hget
  · intro h
    have htail (i : Nat) (hi : i < 7) : rest[i]? = some true := by
      simpa using h (i + 1) (by omega)
    refine ⟨⟨by simpa using h 0 (by omega), ?_⟩, fun x hx => ?_⟩
    · exact (List.getElem?_eq_some_iff.mp (htail 6 (by omega))).1
    · obtain ⟨i, hi, rfl⟩ := List.mem_take_iff_getElem.mp hx
      exact (List.getElem?_eq_some_iff.mp (htail i (by omega))).2

theorem eightFrom_cons_succ (b : Bool) (rest : List Bool) (k : Nat) :
    EightFrom (b :: rest) (k + 1) ↔ EightFrom rest k := by
  simp only [EightFrom, Nat.add_right_comm k 1, List.getElem?_cons_succ]

theorem firstEight_eq_some {cols : List Bool} {k : Nat} (h : EightFrom cols k)
    (hmin : ∀ j, j < k → ¬EightFrom cols j) (i : Nat) : firstEight i cols = some (i + k) := by
  induction cols generalizing i k with
  | nil => exact absurd (h 0 (by omega)) (by simp)
  | cons b rest ih =>
    unfold firstEight
    by_cases hhead : EightFrom (b :: rest) 0
    · obtain rfl : k = 0 := Nat.eq_zero_of_not_pos fun hk => hmin 0 hk hhead
      exact if_pos ((eightFrom_head_iff b rest).mpr hhead)
    · obtain ⟨k, rfl⟩ : ∃ m, k = m + 1 := Nat.exists_eq_succ_of_ne_zero fun hk => hhead (hk ▸ h)
      rw [if_neg fun hb => hhead ((eightFrom_head_iff b rest).mp hb),
        ih ((eightFrom_cons_succ b rest k).mp h) fun j hj hjs =>
          hmin (j + 1) (Nat.succ_lt_succ hj) ((eightFrom_cons_succ b rest j).mpr hjs)]
      congr 1
      omega

theorem firstEight_eq_none {cols : List Bool} (h : ∀ k, ¬EightFrom cols k) (i : Nat) : firstEight i cols = none := by
  induction cols generalizing i with
  | nil => rfl
  | cons b rest ih =>
    unfold firstEight
    rw [if_neg fun hb => h 0 ((eightFrom_head_iff b rest).mp hb)]
    exact ih (fun k hk => h (k + 1) ((eightFrom_cons_succ b rest k).mpr hk)) _

/-! ## The lateral edges (R46) -/

/-- Which columns of the detect window are image-like by their probe sums (R46). -/
def imageColumns (u : Setup) (baseG : Nat) (probe : List Nat) : List Bool :=
  (List.range (u.wr + 1 - u.wl)).map fun i => columnImageLike u baseG (probe.getD i 0)

section edges

variable {u : Setup} {baseG : Nat} {probe : List Nat}

theorem edges_found {l r : Nat} (hl : firstEight 0 (imageColumns u baseG probe) = some l)
    (hr : firstEight 0 (imageColumns u baseG probe).reverse = some r) :
    edges u baseG probe = some (u.wl + l, u.wr - r) := by
  unfold imageColumns at hl hr
  unfold edges
  dsimp only
  rw [hl, hr]

theorem edges_none (h : firstEight 0 (imageColumns u baseG probe) = none) : edges u baseG probe = none := by
  unfold imageColumns at h
  unfold edges
  dsimp only
  rw [h]

variable {strong : Nat → Prop}
  (hstrong : ∀ x, strong x ↔ u.wl ≤ x ∧ x ≤ u.wr ∧ probe.getD (x - u.wl) 0 * 256 < baseG * u.edge * 32)
include hstrong

theorem imageColumns_getElem? (i : Nat) :
    (imageColumns u baseG probe)[i]? = some true ↔ strong (u.wl + i) := by
  rw [hstrong, Nat.add_sub_cancel_left]
  by_cases hi : i < u.wr + 1 - u.wl
  · simp only [imageColumns, columnImageLike, List.getElem?_map, List.getElem?_range hi, Option.map_some,
      Option.some.injEq, decide_eq_true_eq]
    exact ⟨fun h => ⟨by omega, by omega, h⟩, fun h => h.2.2⟩
  · have hnone : (imageColumns u baseG probe)[i]? = none :=
      List.getElem?_eq_none (by simpa [imageColumns] using Nat.not_lt.mp hi)
    simp only [hnone, reduceCtorEq, false_iff]
    omega

theorem imageColumns_reverse_getElem? (i : Nat) :
    (imageColumns u baseG probe).reverse[i]? = some true ↔ i ≤ u.wr ∧ strong (u.wr - i) := by
  have hlen : (imageColumns u baseG probe).length = u.wr + 1 - u.wl := by simp [imageColumns]
  by_cases hi : i < u.wr + 1 - u.wl
  · rw [List.getElem?_reverse (by omega), imageColumns_getElem? hstrong, hlen,
      show u.wl + (u.wr + 1 - u.wl - 1 - i) = u.wr - i by omega]
    exact ⟨fun h => ⟨by omega, h⟩, fun h => h.2⟩
  · rw [List.getElem?_eq_none (by rw [List.length_reverse]; omega), hstrong]
    simp only [reduceCtorEq, false_iff]
    omega

theorem eightFrom_imageColumns_iff (k : Nat) :
    EightFrom (imageColumns u baseG probe) k ↔ ∀ i, i < 8 → strong (u.wl + k + i) := by
  simp only [EightFrom, imageColumns_getElem? hstrong, Nat.add_assoc]

theorem eightFrom_imageColumns_reverse_iff (k : Nat) :
    EightFrom (imageColumns u baseG probe).reverse k ↔ ∀ i, i < 8 → k + i ≤ u.wr ∧ strong (u.wr - k - i) := by
  simp only [EightFrom, imageColumns_reverse_getElem? hstrong, Nat.sub_sub]

/-- The edges are the leftmost and the rightmost column from which eight inward are image-like (R46). -/
theorem edges_eq_some {l r : Nat} (hl : ∀ i, i < 8 → strong (l + i))
    (hlmin : ∀ x, u.wl ≤ x → x < l → ∃ i, i < 8 ∧ ¬strong (x + i))
    (hr : ∀ i, i < 8 → i ≤ r ∧ strong (r - i))
    (hrmax : ∀ x, r < x → x ≤ u.wr → ∃ i, i < 8 ∧ (x < i ∨ ¬strong (x - i))) :
    edges u baseG probe = some (l, r) := by
  have hlwl : u.wl ≤ l := ((hstrong l).mp (hl 0 (by omega))).1
  have hrwr : r ≤ u.wr := ((hstrong r).mp (hr 0 (by omega)).2).2.1
  have hleft : firstEight 0 (imageColumns u baseG probe) = some (0 + (l - u.wl)) := by
    refine firstEight_eq_some ?_ (fun j hj hfrom => ?_) 0
    · rw [eightFrom_imageColumns_iff hstrong, Nat.add_sub_cancel' hlwl]
      exact hl
    · obtain ⟨i, hi, hnot⟩ := hlmin (u.wl + j) (by omega) (by omega)
      exact hnot ((eightFrom_imageColumns_iff hstrong j).mp hfrom i hi)
  have hright : firstEight 0 (imageColumns u baseG probe).reverse = some (0 + (u.wr - r)) := by
    refine firstEight_eq_some ?_ (fun j hj hfrom => ?_) 0
    · rw [eightFrom_imageColumns_reverse_iff hstrong, Nat.sub_sub_self hrwr]
      exact fun i hi => ⟨by have := (hr i hi).1; omega, (hr i hi).2⟩
    · obtain ⟨i, hi, hout | hnot⟩ := hrmax (u.wr - j) (by omega) (by omega)
      · have := ((eightFrom_imageColumns_reverse_iff hstrong j).mp hfrom i hi).1
        omega
      · exact hnot ((eightFrom_imageColumns_reverse_iff hstrong j).mp hfrom i hi).2
  rw [edges_found hleft hright, Nat.zero_add, Nat.zero_add, Nat.add_sub_cancel' hlwl, Nat.sub_sub_self hrwr]

theorem edges_eq_none (h : ∀ x, u.wl ≤ x → ∃ i, i < 8 ∧ ¬strong (x + i)) : edges u baseG probe = none := by
  refine edges_none (firstEight_eq_none (fun k hfrom => ?_) 0)
  obtain ⟨i, hi, hnot⟩ := h (u.wl + k) (Nat.le_add_right _ _)
  exact hnot ((eightFrom_imageColumns_iff hstrong k).mp hfrom i hi)

end edges

/-! ## The format test (R48, R49) -/

section rules

variable {r : FormatRules} {width : Nat}

theorem FormatRule.matches_iff (x : FormatRule) (width : Nat) :
    x.matches width = true ↔ x.enabled = true ∧ x.least ≤ width ∧ width ≤ x.most := by
  simp [FormatRule.matches, and_assoc]

theorem FormatRules.firstMatch_eq (r : FormatRules) (width : Nat) : r.firstMatch width =
    if (r.get 0).matches width then some 0
    else if (r.get 1).matches width then some 1
    else if (r.get 2).matches width then some 2
    else if (r.get 3).matches width then some 3
    else none := rfl

theorem FormatRules.firstMatch_eq_some {i : Nat} (hi : i ≤ 3) (h : (r.get i).matches width = true)
    (hmin : ∀ j, j < i → ¬(r.get j).matches width = true) : r.firstMatch width = some i := by
  rw [FormatRules.firstMatch_eq]
  interval_cases i
  · exact if_pos h
  · rw [if_neg (hmin 0 (by omega))]
    exact if_pos h
  · rw [if_neg (hmin 0 (by omega)), if_neg (hmin 1 (by omega))]
    exact if_pos h
  · rw [if_neg (hmin 0 (by omega)), if_neg (hmin 1 (by omega)), if_neg (hmin 2 (by omega))]
    exact if_pos h

theorem FormatRules.firstMatch_eq_none (h : ∀ i, i ≤ 3 → ¬(r.get i).matches width = true) :
    r.firstMatch width = none := by
  rw [FormatRules.firstMatch_eq]
  rw [if_neg (h 0 (by omega)), if_neg (h 1 (by omega)), if_neg (h 2 (by omega)), if_neg (h 3 (by omega))]

theorem FormatRules.anyEnabled_iff (r : FormatRules) :
    r.anyEnabled = true ↔ ∃ i, i ≤ 3 ∧ (r.get i).enabled = true := by
  simp only [FormatRules.anyEnabled, Bool.or_eq_true]
  constructor
  · rintro (((h | h) | h) | h)
    · exact ⟨0, by omega, h⟩
    · exact ⟨1, by omega, h⟩
    · exact ⟨2, by omega, h⟩
    · exact ⟨3, by omega, h⟩
  · rintro ⟨i, hi, h⟩
    interval_cases i
    · exact .inl (.inl (.inl h))
    · exact .inl (.inl (.inr h))
    · exact .inl (.inr h)
    · exact .inr h

end rules

/-! ## What the probe gives the frame (R46 to R49, R112, R113) -/

section probedOf

variable {u : Setup} {c : Frd} {f : Frame}

theorem probedOf_edges {l r : Nat} (h : edges u c.baseG c.probe = some (l, r)) :
    (probedOf u c f).left = l ∧ (probedOf u c f).right = r ∧ (probedOf u c f).fallback = false := by
  simp [probedOf, h]

theorem probedOf_fallback (h : edges u c.baseG c.probe = none) :
    (probedOf u c f).left = u.wl ∧ (probedOf u c f).right = u.wr ∧ (probedOf u c f).fallback = true := by
  simp [probedOf, h]

theorem probedOf_rule (u : Setup) (c : Frd) (f : Frame) : (probedOf u c f).rule =
    c.rules.firstMatch ((probedOf u c f).right + 1 - (probedOf u c f).left) := rfl

theorem probedOf_rejected (u : Setup) (c : Frd) (f : Frame) : (probedOf u c f).rejected =
    (c.rules.anyEnabled && (probedOf u c f).rule.isNone) := rfl

theorem probedOf_passed (u : Setup) (c : Frd) (f : Frame) : (probedOf u c f).passed =
    ((probedOf u c f).rejected && u.passRejected) := rfl

theorem probedOf_accepted {i : Nat} (h : (probedOf u c f).rule = some i) :
    (probedOf u c f).rejected = false ∧ (probedOf u c f).passed = false := by
  have hrejected : (probedOf u c f).rejected = false := by simp [probedOf_rejected, h]
  exact ⟨hrejected, by rw [probedOf_passed, hrejected, Bool.false_and]⟩

theorem probedOf_rejected_iff (h : (probedOf u c f).rule = none) : (probedOf u c f).rejected = true ↔
    ∃ i, i ≤ 3 ∧ (c.rules.get i).enabled = true := by
  rw [probedOf_rejected, h, ← FormatRules.anyEnabled_iff]
  simp

theorem rectangle_free {p : Profile} (h : p.fw = 0) (left right : Nat) : rectangle u p left right =
    (((max u.wl (left - p.mc) : Nat) : Int), min u.wr (right + p.mc) + 1 - max u.wl (left - p.mc)) := if_pos h

theorem rectangle_fixed {p : Profile} (h : p.fw ≠ 0) (left right : Nat) : rectangle u p left right =
    ((((left + right) / 2 : Nat) : Int) - (p.fw / 2 : Nat), p.fw) := if_neg h

theorem probedOf_rectangle (u : Setup) (c : Frd) (f : Frame) :
    ((probedOf u c f).firstCol, (probedOf u c f).colCount) =
      rectangle u f.profile (probedOf u c f).left (probedOf u c f).right := rfl

end probedOf

end Sys2Proof.Machine

/-! PROOF. The Frame Table: frames created, freed, completed and closed, and the reports of the Frame Detector (R43,
R45, R50 to R55, R109, R173). -/

namespace Sys2Proof.Machine

open Sys2Proof

/-! ## The table's demand (R55) -/

/-- What a demand of the table leaves alone, of what a line at the Frame Detector changes (R55, R135). -/
theorem State.postTable_leaves (s : State) : s.postTable.frd = s.frd ∧ s.postTable.coe = s.coe ∧
    s.postTable.setup = s.setup ∧ s.postTable.scn.slivers = s.scn.slivers ∧
    s.postTable.lif.reports = s.lif.reports ∧
    s.postTable.trc.table = if 8 ≤ s.frd.table.length then .s0 else .s3 := by
  have h : s.postTable.still = (s.setTrc (s.trc.keep .table (tableGrade s.frd.table.length))).still :=
    s.still_post .table _
  exact ⟨congrArg Still.frd h, congrArg Still.coe h, congrArg (fun x => x.scn.setup) h,
    congrArg (fun x => x.scn.slivers) h, congrArg (fun x => x.lif.reports) h, congrArg Still.table h⟩

section table

variable {s : State} {before : List Frame} {f : Frame} {p : Probed}

theorem Frd.currentFrame_append {c : Frd} (ht : c.table = before ++ [f]) : c.currentFrame = some f := by
  rw [Frd.currentFrame, ht, List.getLast?_concat]

theorem Frd.setCurrent_append {c : Frd} (ht : c.table = before ++ [f]) (g : Frame) :
    c.setCurrent g = { c with table := before ++ [g] } := by
  rw [Frd.setCurrent, ht, List.dropLast_concat]

/-! ## Frames created and slivers (R43, R45) -/

/-- The TENTATIVE frame that is created at a line, with the profile then promoted (R43, R109). -/
def State.newFrame (s : State) (top : Nat) : Frame :=
  ⟨top, s.coe.pendingProfile.getD s.coe.active, ⟨0, 0, 0, 0, 0, 0⟩, none, none⟩

theorem Coe.promote_eq (c : Coe) : c.promote =
    { c with active := c.pendingProfile.getD c.active, pendingProfile := none } := by
  rcases c with ⟨_ | profile⟩ <;> rfl

theorem State.createFrame_eq (s : State) (top : Nat) : s.createFrame top =
    ((s.setCoe { s.coe with active := s.coe.pendingProfile.getD s.coe.active, pendingProfile := none }).setFrd
      { s.frd with table := s.frd.table ++ [s.newFrame top] }).postTable := by
  unfold State.createFrame
  rw [Coe.promote_eq]
  rfl

/-- A frame is created at the end of the table, and the pending profile promoted (R43, R55, R109). -/
theorem State.createFrame_leaves (s : State) (top : Nat) :
    (s.createFrame top).frd = { s.frd with table := s.frd.table ++ [s.newFrame top] } ∧
    (s.createFrame top).coe =
      { s.coe with active := s.coe.pendingProfile.getD s.coe.active, pendingProfile := none } ∧
    (s.createFrame top).setup = s.setup ∧ (s.createFrame top).scn.slivers = s.scn.slivers ∧
    (s.createFrame top).lif.reports = s.lif.reports ∧
    (s.createFrame top).trc.table = if 8 ≤ s.frd.table.length + 1 then .s0 else .s3 := by
  rw [State.createFrame_eq]
  obtain ⟨frd, coe, setup, slivers, reports, grade⟩ := ((s.setCoe { s.coe with
    active := s.coe.pendingProfile.getD s.coe.active, pendingProfile := none }).setFrd
      { s.frd with table := s.frd.table ++ [s.newFrame top] }).postTable_leaves
  refine ⟨frd, coe, setup, slivers, reports, grade.trans ?_⟩
  rw [State.setFrd_frd, List.length_append]
  rfl

/-- A sliver leaves the table, is counted, and its tallies go to the outside tally (R45, R55). -/
theorem State.freeSliver_leaves (ht : s.frd.table = before ++ [f]) :
    (s.freeSliver f).frd = { s.frd with table := before, probe := [], outside := s.frd.outside.add f.tally } ∧
    (s.freeSliver f).coe = s.coe ∧ (s.freeSliver f).scn.slivers = s.scn.slivers + 1 ∧
    (s.freeSliver f).lif.reports = s.lif.reports ∧
    (s.freeSliver f).trc.table = if 8 ≤ before.length then .s0 else .s3 := by
  unfold State.freeSliver
  rw [ht, List.dropLast_concat]
  obtain ⟨frd, coe, -, slivers, reports, grade⟩ := ((s.setFrd { s.frd with
    table := before, probe := [], outside := s.frd.outside.add f.tally }).setScn
      { s.scn with slivers := s.scn.slivers + 1 }).postTable_leaves
  exact ⟨frd, coe, slivers, reports, grade⟩

/-! ## Reports offered (R50, R54, R173) -/

theorem State.offerFrd_open (h : s.reportsOpen = true) : s.offerFrd = s.placeFrd :=
  if_pos (State.reportsOpen_iff.mp h)

theorem State.offerFrd_waits (h : s.reportsOpen = false) : s.offerFrd = s.setLif { s.lif with
    waitList := if .frd ∈ s.lif.waitList then s.lif.waitList else s.lif.waitList ++ [.frd] } := by
  have hclosed : ¬(s.lif.reports.length < 8 ∧ s.lif.waitList = []) := fun k => by
    simp [State.reportsOpen_iff.mpr k] at h
  have hjoins : s.offerFrd = s.joinWaitList .frd := if_neg hclosed
  rw [hjoins, State.joinWaitList]
  by_cases hmem : .frd ∈ s.lif.waitList
  · rw [if_pos (List.contains_iff_mem.mpr hmem), if_pos hmem]
    rfl
  · rw [if_neg (mt List.contains_iff_mem.mp hmem), if_neg hmem]

/-! ## The probe completes (R46 to R50) -/

theorem State.completeProbe_eq (ht : s.frd.table = before ++ [f]) : s.completeProbe f =
    ((s.setFrd { s.frd with
      table := before ++ [{ f with probed := some (probedOf s.setup s.frd f) }]
      nextNumber := s.frd.nextNumber + 1
      waiting := s.frd.waiting ++ [.frameOpen s.frd.nextNumber
        (frameOpenPayload f (probedOf s.setup s.frd f) s.frd.baseG)] }).setScn
          { s.scn with frames := s.scn.frames + 1 }).offerFrd := by
  unfold State.completeProbe
  dsimp only
  rw [Frd.setCurrent_append ht]
  rfl

/-- FRAME_OPEN enters at once, and the frame is marked as reported (R50). -/
theorem State.completeProbe_enters (ht : s.frd.table = before ++ [f]) (hopen : s.reportsOpen = true)
    (hw : s.frd.waiting = []) (hn : LacksNumber s.frd.nextNumber before) (hp : p = probedOf s.setup s.frd f) :
    s.completeProbe f = ((s.setFrd { s.frd with
      table := before ++ [{ f with probed := some { p with openReported := true } }]
      nextNumber := s.frd.nextNumber + 1 }).setScn { s.scn with frames := s.scn.frames + 1 }).setLif { s.lif with
        reports := s.lif.reports ++ [⟨0x41#8, 0#8, frameOpenPayload f p s.frd.baseG⟩] } := by
  subst hp
  have hmarked := map_editProbed (f := { f with probed := some (probedOf s.setup s.frd f) }) (after := []) rfl
    (by rw [List.append_nil]; exact hn) fun q => { q with openReported := true }
  rw [State.completeProbe_eq ht, hw, List.nil_append, State.offerFrd_open (by exact hopen),
    State.placeFrd_open (by rfl), setOpenReported_map]
  dsimp only [State.setScn_frd, State.setFrd_frd]
  rw [show s.frd.nextNumber = (probedOf s.setup s.frd f).number from rfl, hmarked, ← hw]
  rfl

/-- FRAME_OPEN waits with the Frame Detector on the wait list (R50, R173). -/
theorem State.completeProbe_waits (ht : s.frd.table = before ++ [f]) (hclosed : s.reportsOpen = false)
    (hp : p = probedOf s.setup s.frd f) : s.completeProbe f = ((s.setFrd { s.frd with
      table := before ++ [{ f with probed := some p }]
      nextNumber := s.frd.nextNumber + 1
      waiting := s.frd.waiting ++ [.frameOpen s.frd.nextNumber (frameOpenPayload f p s.frd.baseG)] }).setScn
        { s.scn with frames := s.scn.frames + 1 }).setLif { s.lif with waitList :=
          if .frd ∈ s.lif.waitList then s.lif.waitList else s.lif.waitList ++ [.frd] } := by
  subst hp
  rw [State.completeProbe_eq ht, State.offerFrd_waits (by exact hclosed)]
  rfl

/-! ## A frame closes (R51 to R54) -/

section close

variable {c : Closed}

theorem Probed.isOutput_eq_false (h1 : p.rejected = true) (h2 : p.passed = false) : p.isOutput = false := by
  rw [Probed.isOutput, h1, h2]
  rfl

variable (ht : s.frd.table = before ++ [f]) (hlast : c.lastRow = min (s.setup.n - 1) (c.bottom + f.profile.mb))
include ht hlast

/-- An output frame is CLOSED, with its bottom, reason and last row (R51 to R53). -/
theorem State.closeFrame_output (ho : p.rejected = false ∨ p.passed = true) :
    s.closeFrame f p c.bottom c.reason = s.setFrd { s.frd with table := before ++ [{ f with closed := some c }] } := by
  unfold State.closeFrame
  dsimp only
  rw [if_pos (p.isOutput_iff.mpr ho), ← hlast, Frd.setCurrent_append ht]

theorem State.closeFrame_rejected (h1 : p.rejected = true) (h2 : p.passed = false) :
    s.closeFrame f p c.bottom c.reason = (s.setFrd { s.frd with
      table := before ++ [{ f with closed := some c }]
      waiting := s.frd.waiting ++ [.frameDone p.number] }).offerFrd := by
  unfold State.closeFrame
  dsimp only
  rw [if_neg (by simp [Probed.isOutput_eq_false h1 h2]), ← hlast, Frd.setCurrent_append ht]

/-- A rejected frame not passed is freed as its FRAME_DONE enters (R54, R55, R121). -/
theorem State.closeFrame_enters (hp : f.probed = some p) (h1 : p.rejected = true) (h2 : p.passed = false)
    (hopen : s.reportsOpen = true) (hw : s.frd.waiting = []) (hn : LacksNumber p.number before) :
    (s.closeFrame f p c.bottom c.reason).frd = { s.frd with table := before } ∧
    (s.closeFrame f p c.bottom c.reason).lif.reports = s.lif.reports ++
      [⟨0x42#8, 0#8, frameDonePayload { f with closed := some c } p c⟩] ∧
    (s.closeFrame f p c.bottom c.reason).lif.waitList = s.lif.waitList ∧
    (s.closeFrame f p c.bottom c.reason).trc.table = if 8 ≤ before.length then .s0 else .s3 := by
  have hlacks : LacksNumber p.number (before ++ []) := by rw [List.append_nil]; exact hn
  have hplaced : s.closeFrame f p c.bottom c.reason = (((s.setFrd { s.frd with
      table := before ++ [{ f with closed := some c }] }).pushReport
        ⟨0x42#8, 0#8, frameDonePayload { f with closed := some c } p c⟩).freeFrame p.number).ringRelease := by
    rw [State.closeFrame_rejected ht hlast h1 h2, State.offerFrd_open (by exact hopen), State.placeFrd, hw]
    refine (State.placeFrameDone_closed (s := s.setFrd { s.frd with
      waiting := [], table := before ++ [{ f with closed := some c }] }) rfl hp rfl hlacks).trans ?_
    rw [← hw]
  obtain ⟨frd, -, reports, waitList, grade⟩ := State.freeFrame_keeps (s := (s.setFrd { s.frd with
    table := before ++ [{ f with closed := some c }] }).pushReport
      ⟨0x42#8, 0#8, frameDonePayload { f with closed := some c } p c⟩) rfl hp hlacks
  rw [hplaced]
  generalize ((s.setFrd _).pushReport _).freeFrame p.number = freed at frd reports waitList grade
  obtain ⟨released_frd, -, -, -, -, -, released_table, -⟩ := freed.ringRelease_keeps
  have hlif : freed.ringRelease.lif.outer = freed.lif.outer := congrArg Outer.lif freed.outer_ringRelease
  refine ⟨?_, (congrArg LifOuter.reports hlif).trans reports, (congrArg LifOuter.waitList hlif).trans waitList, ?_⟩
  · rw [released_frd, frd, List.append_nil]
    rfl
  · rw [released_table, grade, List.append_nil]
    rfl

end close

/-! ## What a close leaves alone -/

/-- What the placing of reports by the Frame Detector leaves alone, of what its stages read (R36, R173). -/
def State.staged (s : State) : Classifier × Coe × Setup := (s.frd.classifier, s.coe, s.setup)

theorem State.staged_freeFrame (s : State) (n : Nat) : (s.freeFrame n).staged = s.staged := by
  obtain ⟨frd, coe, setup, -⟩ := (s.setFrd { s.frd with
    table := s.frd.table.filter fun f => !(decide (f.probed.map (·.number) = some n)) }).postTable_leaves
  rw [State.freeFrame, State.staged, frd, coe, setup]
  rfl

theorem State.staged_ringRelease (s : State) : s.ringRelease.staged = s.staged := by
  obtain ⟨frd, -, -, coe, -, setup, -⟩ := s.ringRelease_keeps
  rw [State.staged, frd, coe, setup]
  rfl

theorem State.staged_placeFrameDone (s : State) (n : Nat) : (s.placeFrameDone n).staged = s.staged := by
  unfold State.placeFrameDone
  split
  · rw [State.staged_ringRelease, State.staged_freeFrame]
    rfl
  · rfl

theorem State.staged_placeFrd (s : State) : s.placeFrd.staged = s.staged := by
  unfold State.placeFrd
  split
  · rfl
  · rfl
  · rw [State.staged_placeFrameDone]
    rfl

theorem State.staged_offerFrd (s : State) : s.offerFrd.staged = s.staged := by
  cases h : s.reportsOpen with
  | true => rw [State.offerFrd_open h, State.staged_placeFrd]
  | false =>
    rw [State.offerFrd_waits h]
    rfl

theorem State.staged_closeFrame (s : State) (f : Frame) (p : Probed) (n : Nat) (r : CloseReason) :
    (s.closeFrame f p n r).staged = s.staged := by
  unfold State.closeFrame
  dsimp only
  split
  · rfl
  · rw [State.staged_offerFrd]
    rfl

/-- A forced close: the frame closes, and a new one begins at the next line (R52). -/
theorem State.forceClose_leaves (s : State) (f : Frame) (p : Probed) (n : Nat) :
    (s.forceClose f p n).frd = { (s.closeFrame f p n .forced).frd with
      table := (s.closeFrame f p n .forced).frd.table ++ [s.newFrame (n + 1)]
      gapRun := 0
      probe := [] } ∧
    (s.forceClose f p n).coe =
      { s.coe with active := s.coe.pendingProfile.getD s.coe.active, pendingProfile := none } ∧
    (s.forceClose f p n).lif.reports = (s.closeFrame f p n .forced).lif.reports ∧
    (s.forceClose f p n).trc.table =
      if 8 ≤ (s.closeFrame f p n .forced).frd.table.length + 1 then .s0 else .s3 := by
  have hcoe : (s.closeFrame f p n .forced).coe = s.coe :=
    congrArg (fun x => x.2.1) (s.staged_closeFrame f p n .forced)
  unfold State.forceClose
  dsimp only
  generalize s.closeFrame f p n .forced = closed at hcoe
  obtain ⟨frd, coe, -, -, reports, grade⟩ :=
    (closed.setFrd { closed.frd with gapRun := 0, probe := [] }).createFrame_leaves (n + 1)
  rw [State.newFrame, State.setFrd_coe, hcoe] at frd
  rw [State.setFrd_coe, hcoe] at coe
  exact ⟨frd, coe, reports, grade⟩

end table

end Sys2Proof.Machine

/-! PROOF. The Frame Detector at a line, stage by stage, and as a whole (R36 to R40, R44, R46, R51 to R53; O52). -/

namespace Sys2Proof.Machine

open Sys2Proof

/-! ## The line as a whole (R36) -/

/-- The green samples of the detect window (R36). -/
def State.lineGreens (s : State) (px : List Pixel) : List Nat := (window s.setup px).map (·.g.toNat)

/-- The class of a line (R37). -/
def State.lineClass (s : State) (px : List Pixel) : LineClass :=
  classify s.setup s.frd.baseG (mean s.setup (s.lineGreens px))

/-- The bases as a gap-like line in GAP moves them (R40). -/
def State.movedBases (s : State) (px : List Pixel) : Frd :=
  s.frd.updateBases (mean s.setup ((window s.setup px).map (·.r.toNat))) (mean s.setup (s.lineGreens px))
    (mean s.setup ((window s.setup px).map (·.ir.toNat)))

/-- Stages 5 and 6: the probe, then the closes (R46, R52, R53). -/
def State.frdTail (s : State) (n : Nat) : State := (s.frdProbeStage n).frdCloseStage n

/-- The line is handled, and the Crop Output Engine takes its settled limit (R116). -/
def State.lineEnd (s : State) (n : Nat) : State := (s.setFrd { s.frd with handled := n }).refreshSettled

/-- The class by the green mean against the green base (R37). -/
theorem classify_eq {u : Setup} {baseG mG : Nat} {cls : LineClass}
    (h : baseG * u.gl ≤ mG * 256 ∧ cls = .gapLike ∨
      mG * 256 < baseG * u.gl ∧ mG * 256 < baseG * u.il ∧ cls = .imageLike ∨
      mG * 256 < baseG * u.gl ∧ baseG * u.il ≤ mG * 256 ∧ cls = .neutral) : classify u baseG mG = cls := by
  unfold classify
  rcases h with ⟨h, rfl⟩ | ⟨h1, h2, rfl⟩ | ⟨h1, h2, rfl⟩
  · exact if_pos h
  · rw [if_neg (Nat.not_le.mpr h1), if_pos h2]
  · rw [if_neg (Nat.not_le.mpr h1), if_neg (Nat.not_lt.mpr h2)]

theorem State.lineEnd_eq (s : State) (n : Nat) : ∃ row, s.lineEnd n =
    (s.setFrd { s.frd with handled := n }).setCoe { s.coe with settled := row } := by
  unfold State.lineEnd State.refreshSettled
  split
  · split
    · exact ⟨_, rfl⟩
    · exact ⟨s.coe.settled, rfl⟩
  · exact ⟨s.coe.settled, rfl⟩

section lineEnd

variable (s : State) (n : Nat)

@[simp] theorem State.lineEnd_frd : (s.lineEnd n).frd = { s.frd with handled := n } := by
  obtain ⟨row, h⟩ := s.lineEnd_eq n
  rw [h]
  rfl

@[simp] theorem State.lineEnd_scn : (s.lineEnd n).scn = s.scn := by
  obtain ⟨row, h⟩ := s.lineEnd_eq n
  rw [h]
  rfl

@[simp] theorem State.lineEnd_lif : (s.lineEnd n).lif = s.lif := by
  obtain ⟨row, h⟩ := s.lineEnd_eq n
  rw [h]
  rfl

@[simp] theorem State.lineEnd_trc : (s.lineEnd n).trc = s.trc := by
  obtain ⟨row, h⟩ := s.lineEnd_eq n
  rw [h]
  rfl

@[simp] theorem State.lineEnd_active : (s.lineEnd n).coe.active = s.coe.active := by
  obtain ⟨row, h⟩ := s.lineEnd_eq n
  rw [h]
  rfl

@[simp] theorem State.lineEnd_pendingProfile : (s.lineEnd n).coe.pendingProfile = s.coe.pendingProfile := by
  obtain ⟨row, h⟩ := s.lineEnd_eq n
  rw [h]
  rfl

end lineEnd

section line

variable {s : State} {n : Nat} {px : List Pixel} {cls : LineClass}

/-- A line in IMAGE: stage 3 counts it, and the stages behind it act on what is left (R36). -/
theorem State.frdLine_image (hc : s.frd.classifier = .image) (hcls : s.lineClass px = cls) :
    s.frdLine n px = ((s.frdInImage n cls (s.lineGreens px)).frdTail n).lineEnd n := by
  subst hcls
  unfold State.frdLine
  dsimp only
  rw [hc, if_neg (by simp)]
  rfl

/-- So does a line in GAP that is not gap-like (R36). -/
theorem State.frdLine_gap (hc : s.frd.classifier = .gap) (hcls : s.lineClass px = cls) (hne : cls ≠ .gapLike) :
    s.frdLine n px = ((s.frdInGap n cls (s.lineGreens px)).frdTail n).lineEnd n := by
  subst hcls
  unfold State.frdLine
  dsimp only
  rw [hc, if_neg fun k => hne k.2]
  rfl

/-! ## Stages 5 and 6 (R46, R52, R53) -/

section tail

variable {f : Frame} {p : Probed}

theorem State.frdCloseStage_gap (hc : s.frd.classifier = .gap) : s.frdCloseStage n = s := by
  unfold State.frdCloseStage
  rw [hc]

theorem State.frdTail_gap (hc : s.frd.classifier = .gap) : s.frdTail n = s := by
  have hprobe : s.frdProbeStage n = s := by
    unfold State.frdProbeStage
    rw [hc]
    split
    · exact if_neg (by simp)
    · rfl
  rw [State.frdTail, hprobe, State.frdCloseStage_gap hc]

variable (hc : s.frd.classifier = .image) (hf : s.frd.currentFrame = some f)
include hc hf

omit hc in
theorem State.frdProbeStage_none (h : f.probed ≠ none ∨ n + 1 ≠ f.top + 32) : s.frdProbeStage n = s := by
  unfold State.frdProbeStage
  rw [hf]
  exact if_neg fun k => h.elim (fun hp => hp k.2.1) (fun hn => hn k.2.2)

theorem State.frdProbeStage_due (hp : f.probed = none) (h : n + 1 = f.top + 32) :
    s.frdProbeStage n = s.completeProbe f := by
  unfold State.frdProbeStage
  rw [hf]
  exact if_pos ⟨hc, hp, h⟩

theorem State.frdCloseStage_tentative (hp : f.probed = none) :
    s.frdCloseStage n = if n + 1 = s.setup.n then s.freeSliver f else s := by
  unfold State.frdCloseStage
  rw [hc, hf]
  dsimp only
  rw [hp]

theorem State.frdCloseStage_closed (hp : f.probed = some p) (h : f.closed ≠ none) : s.frdCloseStage n = s := by
  unfold State.frdCloseStage
  rw [hc, hf]
  dsimp only
  rw [hp]
  exact if_pos (Option.isSome_iff_ne_none.mpr h)

theorem State.frdCloseStage_open (hp : f.probed = some p) (h : f.closed = none) : s.frdCloseStage n =
    if n + 1 = s.setup.n then s.closeFrame f p n .scanEnd
    else if n + 1 = f.top + s.setup.mfl then s.forceClose f p n
    else s := by
  unfold State.frdCloseStage
  rw [hc, hf]
  dsimp only
  rw [hp]
  exact if_neg (by simp [h])

/-- A TENTATIVE frame whose probe is not due is a sliver on the scan's last line (R45, R53). -/
theorem State.frdTail_tentative (hp : f.probed = none) (hn : n + 1 ≠ f.top + 32) :
    s.frdTail n = if n + 1 = s.setup.n then s.freeSliver f else s := by
  rw [State.frdTail, State.frdProbeStage_none hf (.inr hn), State.frdCloseStage_tentative hc hf hp]

omit hc in
theorem State.frdTail_numbered (hp : f.probed = some p) : s.frdTail n = s.frdCloseStage n := by
  rw [State.frdTail, State.frdProbeStage_none hf (.inl (by simp [hp]))]

end tail

/-! ## Lines in GAP (R38, R40, R43) -/

section gap

variable (hc : s.frd.classifier = .gap)
include hc

theorem State.frdLine_gapLike (hcls : s.lineClass px = .gapLike) :
    s.frdLine n px = (s.setFrd { s.movedBases px with imageRun := 0 }).lineEnd n := by
  have htail : s.frdLine n px = ((s.setFrd { s.movedBases px with imageRun := 0 }).frdTail n).lineEnd n := by
    have hstages : s.frdLine n px = (((s.frdInGap n (s.lineClass px) (s.lineGreens px)).setFrd
        ((s.frdInGap n (s.lineClass px) (s.lineGreens px)).frd.updateBases
          (mean s.setup ((window s.setup px).map (·.r.toNat))) (mean s.setup (s.lineGreens px))
          (mean s.setup ((window s.setup px).map (·.ir.toNat))))).frdTail n).lineEnd n := by
      unfold State.frdLine
      dsimp only
      rw [hc, if_pos ⟨rfl, hcls⟩]
      rfl
    rw [hstages, hcls]
    rfl
  rw [htail, State.frdTail_gap (by exact hc)]

theorem State.frdLine_neutral (hcls : s.lineClass px = .neutral) :
    s.frdLine n px = (s.setFrd { s.frd with imageRun := 0 }).lineEnd n := by
  rw [State.frdLine_gap hc hcls (by decide)]
  exact congrArg (State.lineEnd · n) (State.frdTail_gap (s := s.setFrd { s.frd with imageRun := 0 }) hc)

/-- The column sums with an image-like line of GAP added (R38, R44). -/
def State.runSums (s : State) (px : List Pixel) : List Nat :=
  addSums (if s.frd.imageRun = 0 then [] else s.frd.probe) (s.lineGreens px)

theorem State.frdLine_counts (hcls : s.lineClass px = .imageLike) (h : s.frd.imageRun + 1 < s.setup.imageMin) :
    s.frdLine n px = (s.setFrd { s.frd with
      imageRun := s.frd.imageRun + 1, probe := s.runSums px }).lineEnd n := by
  rw [State.frdLine_gap hc hcls (by decide), State.frdInGap]
  dsimp only
  rw [if_neg (Nat.not_le.mpr h), State.frdTail_gap (by exact hc)]
  rfl

/-- The frame that the line completing IMAGE_MIN creates, with IMAGE entered (R38, R43). -/
def State.entersImage (s : State) (n : Nat) (px : List Pixel) : State :=
  (s.setFrd { s.frd with
    classifier := .image
    imageRun := s.frd.imageRun + 1
    gapRun := 0
    probe := s.runSums px }).createFrame (n + 1 - s.setup.imageMin)

theorem State.frdLine_creates (hcls : s.lineClass px = .imageLike) (h : s.frd.imageRun + 1 = s.setup.imageMin) :
    s.frdLine n px = ((s.entersImage n px).frdTail n).lineEnd n := by
  rw [State.frdLine_gap hc hcls (by decide), State.frdInGap]
  dsimp only
  rw [if_pos (Nat.le_of_eq h.symm)]
  rfl

end gap

section created

variable (s : State) (n : Nat) (px : List Pixel)

theorem State.entersImage_leaves : (s.entersImage n px).frd = { s.frd with
      classifier := .image
      imageRun := s.frd.imageRun + 1
      gapRun := 0
      probe := s.runSums px
      table := s.frd.table ++ [s.newFrame (n + 1 - s.setup.imageMin)] } ∧
    (s.entersImage n px).coe =
      { s.coe with active := s.coe.pendingProfile.getD s.coe.active, pendingProfile := none } ∧
    (s.entersImage n px).setup = s.setup ∧ (s.entersImage n px).scn.slivers = s.scn.slivers ∧
    (s.entersImage n px).lif.reports = s.lif.reports ∧
    (s.entersImage n px).trc.table = if 8 ≤ s.frd.table.length + 1 then .s0 else .s3 :=
  State.createFrame_leaves _ _

theorem State.entersImage_eq : s.entersImage n px =
    ((s.setCoe { s.coe with active := s.coe.pendingProfile.getD s.coe.active, pendingProfile := none }).setFrd
      { s.frd with
        classifier := .image
        imageRun := s.frd.imageRun + 1
        gapRun := 0
        probe := s.runSums px
        table := s.frd.table ++ [s.newFrame (n + 1 - s.setup.imageMin)] }).post .table
          (if 8 ≤ s.frd.table.length + 1 then .s0 else .s3) := by
  have hlength : (s.frd.table ++ [s.newFrame (n + 1 - s.setup.imageMin)]).length = s.frd.table.length + 1 :=
    List.length_append
  rw [← hlength, State.entersImage, State.createFrame_eq]
  rfl

end created

/-- A frame created with its probe not yet due is a sliver on the scan's last line (R38, R43, R45). -/
theorem State.frdLine_created (hc : s.frd.classifier = .gap) (hcls : s.lineClass px = .imageLike)
    (h : s.frd.imageRun + 1 = s.setup.imageMin) (hmin : s.setup.imageMin < 32) (htop : s.setup.imageMin ≤ n + 1) :
    s.frdLine n px = (if n + 1 = s.setup.n then
        (s.entersImage n px).freeSliver (s.newFrame (n + 1 - s.setup.imageMin))
      else s.entersImage n px).lineEnd n := by
  obtain ⟨frd, -, setup, -⟩ := s.entersImage_leaves n px
  have hdue : n + 1 ≠ (s.newFrame (n + 1 - s.setup.imageMin)).top + 32 := by
    rw [State.newFrame]
    dsimp only
    omega
  rw [State.frdLine_creates hc hcls h, State.frdTail_tentative (congrArg Frd.classifier frd)
    (Frd.currentFrame_append (congrArg Frd.table frd)) rfl hdue, setup]

/-! ## Lines in IMAGE (R39, R44, R45, R51) -/

/-- GAP is entered (R39). -/
def State.entersGap (s : State) : State := s.setFrd { s.frd with classifier := .gap, imageRun := 0 }

/-- The gap run with a line of IMAGE counted (R39). -/
def State.gapCount (s : State) (cls : LineClass) : Nat := if cls = .gapLike then s.frd.gapRun + 1 else 0

/-- A line of IMAGE is counted, and gathered while the current frame is TENTATIVE (R39, R44). -/
def State.counted (s : State) (f : Frame) (n : Nat) (cls : LineClass) (greens : List Nat) : State :=
  s.setFrd { s.frd with
    probe := if f.probed = none ∧ n < f.top + 32 then addSums s.frd.probe greens else s.frd.probe
    gapRun := s.gapCount cls }

section image

variable {f : Frame} {p : Probed} {greens : List Nat} (hf : s.frd.currentFrame = some f)
include hf

theorem State.frdInImage_eq : s.frdInImage n cls greens =
    if s.setup.gapMin ≤ s.gapCount cls then (s.counted f n cls greens).enterGap n else s.counted f n cls greens := by
  have hsums : (if (f.probed.isNone && decide (n < f.top + Config.probeLines)) = true then addSums s.frd.probe greens
      else s.frd.probe) = if f.probed = none ∧ n < f.top + 32 then addSums s.frd.probe greens else s.frd.probe :=
    if_congr (by rw [Bool.and_eq_true, Option.isNone_iff_eq_none, decide_eq_true_eq]; rfl) rfl rfl
  unfold State.frdInImage
  dsimp only
  rw [hf]
  dsimp only
  rw [hsums]
  rfl

theorem State.enterGap_sliver (hp : f.probed = none) : s.enterGap n = s.entersGap.freeSliver f := by
  have hcurrent : s.entersGap.frd.currentFrame = some f := hf
  unfold State.entersGap at hcurrent
  unfold State.enterGap
  dsimp only
  rw [hcurrent]
  dsimp only
  rw [hp]
  rfl

theorem State.enterGap_closes (hp : f.probed = some p) (h : f.closed = none) : s.enterGap n =
    s.entersGap.closeFrame f p (n - s.setup.gapMin) .gap := by
  have hcurrent : s.entersGap.frd.currentFrame = some f := hf
  unfold State.entersGap at hcurrent
  unfold State.enterGap
  dsimp only
  rw [hcurrent]
  dsimp only
  rw [hp]
  exact if_neg (by simp [h])

variable (hc : s.frd.classifier = .image) (hcls : s.lineClass px = cls)
include hc hcls

/-- Below GAP_MIN the stages behind act on the frame of the line before (R39). -/
theorem State.frdLine_below (h : s.gapCount cls < s.setup.gapMin) :
    s.frdLine n px = ((s.counted f n cls (s.lineGreens px)).frdTail n).lineEnd n := by
  rw [State.frdLine_image hc hcls, State.frdInImage_eq hf, if_neg (Nat.not_le.mpr h)]

/-- At GAP_MIN a TENTATIVE frame is a sliver (R39, R45). -/
theorem State.frdLine_sliver (h : s.setup.gapMin ≤ s.gapCount cls) (hp : f.probed = none)
    {before : List Frame} (ht : s.frd.table = before ++ [f]) :
    s.frdLine n px = ((s.counted f n cls (s.lineGreens px)).entersGap.freeSliver f).lineEnd n := by
  obtain ⟨frd, -⟩ := State.freeSliver_leaves (s := (s.counted f n cls (s.lineGreens px)).entersGap) ht
  rw [State.frdLine_image hc hcls, State.frdInImage_eq hf, if_pos h, State.enterGap_sliver (by exact hf) hp,
    State.frdTail_gap (congrArg Frd.classifier frd)]

/-- At GAP_MIN an OPEN frame is closed by gap (R39, R51). -/
theorem State.frdLine_closes (h : s.setup.gapMin ≤ s.gapCount cls) (hp : f.probed = some p) (ho : f.closed = none) :
    s.frdLine n px = ((s.counted f n cls (s.lineGreens px)).entersGap.closeFrame f p (n - s.setup.gapMin) .gap).lineEnd
      n := by
  have hstaged := State.staged_closeFrame (s.counted f n cls (s.lineGreens px)).entersGap f p (n - s.setup.gapMin) .gap
  rw [State.frdLine_image hc hcls, State.frdInImage_eq hf, if_pos h, State.enterGap_closes (by exact hf) hp ho]
  exact congrArg (State.lineEnd · n) (State.frdTail_gap (congrArg Prod.fst hstaged))

/-- Short of GAP_MIN, of the probe's last line, of the forced close and of the scan's last line nothing befalls the
frame (R36). -/
theorem State.frdLine_rests (h : s.gapCount cls < s.setup.gapMin) (hn : n + 1 < s.setup.n)
    (hprobe : f.probed = none → n + 1 ≠ f.top + 32)
    (hforced : f.probed ≠ none → f.closed ≠ none ∨ n + 1 ≠ f.top + s.setup.mfl) :
    s.frdLine n px = (s.counted f n cls (s.lineGreens px)).lineEnd n := by
  rw [State.frdLine_below hf hc hcls h]
  congr 1
  cases hp : f.probed with
  | none =>
    rw [State.frdTail_tentative (by exact hc) (by exact hf) hp (hprobe hp)]
    exact if_neg (Nat.ne_of_lt hn)
  | some p =>
    rw [State.frdTail_numbered (by exact hf) hp]
    by_cases ho : f.closed = none
    · rw [State.frdCloseStage_open (by exact hc) (by exact hf) hp ho]
      have hlimit := (hforced (by simp [hp])).resolve_left (not_not.mpr ho)
      exact (if_neg (Nat.ne_of_lt hn)).trans (if_neg hlimit)
    · exact State.frdCloseStage_closed (by exact hc) (by exact hf) hp ho

/-- On the scan's last line a TENTATIVE frame whose probe is not due is a sliver (R45, R53). -/
theorem State.frdLine_lastSliver (h : s.gapCount cls < s.setup.gapMin) (hn : n + 1 = s.setup.n)
    (hp : f.probed = none) (hprobe : n + 1 ≠ f.top + 32) :
    s.frdLine n px = ((s.counted f n cls (s.lineGreens px)).freeSliver f).lineEnd n := by
  rw [State.frdLine_below hf hc hcls h, State.frdTail_tentative (by exact hc) (by exact hf) hp hprobe]
  exact congrArg (State.lineEnd · n) (if_pos hn)

/-- Below GAP_MIN an OPEN frame is closed on the scan's last line, or by force (R52, R53). -/
theorem State.frdLine_open (h : s.gapCount cls < s.setup.gapMin) (hp : f.probed = some p) (ho : f.closed = none) :
    s.frdLine n px = (if n + 1 = s.setup.n then (s.counted f n cls (s.lineGreens px)).closeFrame f p n .scanEnd
      else if n + 1 = f.top + s.setup.mfl then (s.counted f n cls (s.lineGreens px)).forceClose f p n
      else s.counted f n cls (s.lineGreens px)).lineEnd n := by
  rw [State.frdLine_below hf hc hcls h, State.frdTail_numbered (by exact hf) hp,
    State.frdCloseStage_open (by exact hc) (by exact hf) hp ho]
  rfl

end image

/-! ## The line that completes a probe (R46) -/

/-- Line n completes the probe of the frame `f`, the newest of the state `z` that the stages before leave of `s`. -/
structure State.ProbeDue (s z : State) (n : Nat) (px : List Pixel) (before : List Frame) (f : Frame) : Prop where
  line : s.frdLine n px = ((z.completeProbe f).frdCloseStage n).lineEnd n
  classifier : z.frd.classifier = .image
  table : z.frd.table = before ++ [f]
  number : z.frd.nextNumber = s.frd.nextNumber
  waiting : z.frd.waiting = s.frd.waiting
  baseG : z.frd.baseG = s.frd.baseG
  setup : z.setup = s.setup

theorem State.probeDue_image {before : List Frame} {f : Frame} (hc : s.frd.classifier = .image)
    (hcls : s.lineClass px = cls) (ht : s.frd.table = before ++ [f]) (hp : f.probed = none)
    (h : s.gapCount cls < s.setup.gapMin) (hn : n + 1 = f.top + 32) :
    s.ProbeDue (s.counted f n cls (s.lineGreens px)) n px before f where
  line := by
    rw [State.frdLine_below (Frd.currentFrame_append ht) hc hcls h, State.frdTail,
      State.frdProbeStage_due (by exact hc) (Frd.currentFrame_append (by exact ht)) hp hn]
  classifier := hc
  table := ht
  number := rfl
  waiting := rfl
  baseG := rfl
  setup := rfl

theorem State.probeDue_gap (hc : s.frd.classifier = .gap) (hcls : s.lineClass px = .imageLike)
    (h : s.frd.imageRun + 1 = s.setup.imageMin) (hn : n + 1 = n + 1 - s.setup.imageMin + 32) :
    s.ProbeDue (s.entersImage n px) n px s.frd.table (s.newFrame (n + 1 - s.setup.imageMin)) := by
  obtain ⟨frd, -, setup, -⟩ := s.entersImage_leaves n px
  have htable := congrArg Frd.table frd
  have hclassifier := congrArg Frd.classifier frd
  refine ⟨?_, hclassifier, htable, by rw [frd], by rw [frd], by rw [frd], setup⟩
  rw [State.frdLine_creates hc hcls h, State.frdTail,
    State.frdProbeStage_due hclassifier (Frd.currentFrame_append htable) rfl hn]

end line

/-- Settles O52: the lines of GAP and of IMAGE by their stages, the completed probe and the close by what each
leaves. -/
theorem framesAreFoundNumberedAndClosed : Obligations.FramesAreFoundNumberedAndClosed := by
  refine ⟨?created, ?line, ?close, ?probed⟩
  case created =>
    intro s n px hc hcls h hmin htop hn
    rw [State.frdLine_created hc hcls h hmin htop, if_neg (Nat.ne_of_lt hn)]
    obtain ⟨frd, coe, -, -, -, grade⟩ := s.entersImage_leaves n px
    rw [State.lineEnd_frd, State.lineEnd_trc, State.lineEnd_active, State.lineEnd_pendingProfile, frd, coe, grade]
    exact ⟨rfl, rfl, rfl, rfl, rfl⟩
  case line =>
    rintro s n _ _ _ px _ _ cls rfl rfl rfl rfl rfl hclass
    have hcls : s.lineClass px = cls := classify_eq hclass
    refine ⟨fun hc => ⟨?gapLike, ?neutral, ?counts, ?last⟩, ?image, ?probe⟩
    case gapLike =>
      rintro rfl
      rw [State.frdLine_gapLike hc hcls, State.lineEnd_frd]
      rfl
    case neutral =>
      rintro rfl
      rw [State.frdLine_neutral hc hcls, State.lineEnd_frd]
      rfl
    case counts =>
      rintro rfl h
      rw [State.frdLine_counts hc hcls h, State.lineEnd_frd]
      rfl
    case last =>
      rintro rfl h hmin htop hn
      rw [State.frdLine_created hc hcls h hmin htop, if_pos hn]
      obtain ⟨frd, coe, -, slivers, -, -⟩ := s.entersImage_leaves n px
      obtain ⟨freed_frd, freed_coe, freed_slivers, -, freed_grade⟩ :=
        State.freeSliver_leaves (congrArg Frd.table frd)
      rw [State.lineEnd_frd, State.lineEnd_scn, State.lineEnd_trc, State.lineEnd_active, State.lineEnd_pendingProfile,
        freed_frd, freed_coe, freed_slivers, freed_grade, frd, coe, slivers]
      exact ⟨rfl, rfl, rfl, rfl, rfl⟩
    case image =>
      rintro before f run _ _ hc ht hrun rfl rfl
      obtain rfl : run = s.gapCount cls := hrun
      have hf := Frd.currentFrame_append ht
      refine ⟨fun hrun hn hprobe hforced => ?rests, fun hp hdue => ?sliver,
        fun p hp ho => ⟨fun hrun => ?gap, fun hrun hn => ?scanEnd, fun hrun hn hmfl => ?forced⟩⟩
      case rests =>
        rw [State.frdLine_rests hf hc hcls hrun hn hprobe hforced, State.lineEnd_frd]
        rfl
      case sliver =>
        by_cases hrun : s.setup.gapMin ≤ s.gapCount cls
        · obtain ⟨frd, -, slivers, reports, grade⟩ :=
            State.freeSliver_leaves (s := (s.counted f n cls (s.lineGreens px)).entersGap) ht
          rw [State.frdLine_sliver hf hc hcls hrun hp ht, State.lineEnd_frd, State.lineEnd_scn, State.lineEnd_lif,
            State.lineEnd_trc, frd, slivers, reports, grade, if_pos hrun, if_pos hrun]
          exact ⟨rfl, rfl, rfl, rfl⟩
        · obtain ⟨hn, hprobe⟩ := hdue.resolve_left hrun
          obtain ⟨frd, -, slivers, reports, grade⟩ :=
            State.freeSliver_leaves (s := s.counted f n cls (s.lineGreens px)) ht
          rw [State.frdLine_lastSliver hf hc hcls (Nat.lt_of_not_le hrun) hn hp hprobe, State.lineEnd_frd,
            State.lineEnd_scn, State.lineEnd_lif, State.lineEnd_trc, frd, slivers, reports, grade, if_neg hrun,
            if_neg hrun, ← hc]
          exact ⟨rfl, rfl, rfl, rfl⟩
      case gap =>
        rw [State.frdLine_closes hf hc hcls hrun hp ho]
        exact ⟨_, rfl, State.lineEnd_frd _ _, State.lineEnd_lif _ _, State.lineEnd_trc _ _, State.lineEnd_scn _ _⟩
      case scanEnd =>
        rw [State.frdLine_open hf hc hcls hrun hp ho, if_pos hn]
        exact ⟨_, rfl, State.lineEnd_frd _ _, State.lineEnd_lif _ _, State.lineEnd_trc _ _, State.lineEnd_scn _ _⟩
      case forced =>
        obtain ⟨frd, coe, reports, grade⟩ := (s.counted f n cls (s.lineGreens px)).forceClose_leaves f p n
        rw [State.frdLine_open hf hc hcls hrun hp ho, if_neg (Nat.ne_of_lt hn), if_pos hmfl, State.lineEnd_frd,
          State.lineEnd_lif, State.lineEnd_active, State.lineEnd_pendingProfile, State.lineEnd_trc, frd, coe]
        exact ⟨_, rfl, rfl, reports, rfl, rfl, grade⟩
    case probe =>
      rintro before f run z opened p q _ hstages hdue hmfl hp rfl hn hopened
      have due : s.ProbeDue z n px before f := by
        rcases hstages with ⟨hc, ht, hnone, rfl, hrun, rfl⟩ | ⟨hc, rfl, h, hmin, rfl, rfl, rfl⟩
        · have hcounted : s.counted f n cls (s.lineGreens px) = s.setFrd { s.frd with
              probe := addSums s.frd.probe (s.lineGreens px), gapRun := s.gapCount cls } := by
            rw [State.counted, if_pos ⟨hnone, by omega⟩]
          have due := State.probeDue_image hc hcls ht hnone hrun hdue
          rw [hcounted] at due
          exact due
        · dsimp only at hdue
          have htop : n + 1 - s.setup.imageMin = n - 31 := by omega
          have due := State.probeDue_gap (n := n) hc hcls h (by omega)
          rw [State.entersImage_eq, htop, h, hmin] at due
          exact due
      obtain ⟨hline, hclassifier, htable, hnumber, hwaiting, hbase, hsetup⟩ := due
      rw [← hsetup] at hp
      have hcompleted : z.completeProbe f = opened ∧ opened.frd.classifier = .image ∧
          opened.frd.table = before ++ [{ f with probed := some q }] ∧ opened.setup = s.setup := by
        rcases hopened with ⟨hopen, hempty, rfl, rfl⟩ | ⟨hclosed, rfl, rfl⟩
        · rw [State.completeProbe_enters htable hopen (hwaiting.trans hempty) (hnumber ▸ hn) hp, hnumber, hbase]
          exact ⟨rfl, hclassifier, rfl, hsetup⟩
        · rw [State.completeProbe_waits htable hclosed hp, hnumber, hbase, hwaiting]
          exact ⟨rfl, hclassifier, rfl, hsetup⟩
      obtain ⟨hopens, hclassifier, htable, hsetup⟩ := hcompleted
      have hcurrent := Frd.currentFrame_append htable
      rw [hline, hopens]
      refine ⟨fun hno => ?stays, fun ho hlast => ?closes⟩
      case stays =>
        have hstays : opened.frdCloseStage n = opened := by
          by_cases ho : f.closed = none
          · rw [State.frdCloseStage_open hclassifier hcurrent rfl ho, hsetup,
              if_neg (hno.resolve_left (not_not.mpr ho))]
            exact if_neg (by dsimp only; omega)
          · exact State.frdCloseStage_closed hclassifier hcurrent rfl ho
        rw [hstays]
        exact ⟨State.lineEnd_frd _ _, State.lineEnd_scn _ _, State.lineEnd_lif _ _, State.lineEnd_trc _ _⟩
      case closes =>
        rw [State.frdCloseStage_open hclassifier hcurrent rfl ho, hsetup, if_pos hlast]
        exact ⟨_, rfl, State.lineEnd_frd _ _, State.lineEnd_scn _ _, State.lineEnd_lif _ _, State.lineEnd_trc _ _⟩
  case close =>
    intro s before f p c ht hp _ hlast
    refine ⟨State.closeFrame_output ht hlast, fun h1 h2 hclosed => ?_, fun h1 h2 hopen hw hn => ?_⟩
    · rw [State.closeFrame_rejected ht hlast h1 h2, State.offerFrd_waits (by exact hclosed)]
      rfl
    · exact ⟨_, rfl, State.closeFrame_enters ht hlast hp h1 h2 hopen hw hn⟩
  case probed =>
    rintro u c f _ strong rfl hstrong
    refine ⟨rfl, rfl, rfl, fun l r hl hlmin hr hrmax => probedOf_edges (edges_eq_some hstrong hl hlmin hr hrmax),
      fun h => probedOf_fallback (edges_eq_none hstrong h), fun wide hwide => ?_, fun h => ?_, fun h => ?_⟩
    · have hmatch (i : Nat) := (hwide i).trans (FormatRule.matches_iff _ _).symm
      refine ⟨fun i hi h hmin => ?_, fun h => ?_⟩
      · have hrule : (probedOf u c f).rule = some i :=
          (probedOf_rule u c f).trans (FormatRules.firstMatch_eq_some hi ((hmatch i).mp h) fun j hj k =>
            hmin j hj ((hmatch j).mpr k))
        exact ⟨hrule, probedOf_accepted hrule⟩
      · have hrule : (probedOf u c f).rule = none :=
          (probedOf_rule u c f).trans (FormatRules.firstMatch_eq_none fun i hi k => h i hi ((hmatch i).mpr k))
        exact ⟨hrule, probedOf_rejected_iff hrule, rfl⟩
    · exact Prod.mk.inj ((probedOf_rectangle u c f).trans (rectangle_free h _ _))
    · exact Prod.mk.inj ((probedOf_rectangle u c f).trans (rectangle_fixed h _ _))

end Sys2Proof.Machine

/-! PROOF. The commands of the carriage at a ready link: SPEED_CAP, HOME and MOVE (O27, O29, O30). -/

namespace Sys2Proof.Machine

open Sys2Proof

/-! ## A change of the resolved grade -/

section transport

variable {s : State} {r : Grade}

/-- A halted carriage, PARKED or braking: S0 stops the hold, and a grade above S0 starts it once the lamp is ready
and no hold has ended (R137, R141). -/
theorem State.gradeChanged_halted (hon : s.trc.scanOn = true) (h : s.trc.braking = true ∨ s.trc.motion = .parked) :
    s.gradeChanged r = s.setTrc (
      if r = .s0 then { s.trc with hold := false, holdDone := false }
      else if s.trc.lampReady = true ∧ s.trc.holdDone = false then { s.trc with hold := true }
      else s.trc) := by
  unfold State.gradeChanged State.rehold
  rw [if_neg (by simp [hon]), if_pos (by simpa using h)]
  by_cases h0 : r = .s0
  · rw [if_pos h0, if_pos h0]
  · rw [if_neg h0, if_neg h0]
    by_cases hl : s.trc.lampReady = true ∧ s.trc.holdDone = false
    · rw [if_pos hl, if_pos (by simp [hl])]
    · rw [if_neg hl, if_neg (by simpa using hl)]
      rfl

/-- A carriage that runs at a grade: a grade above S0 waits for the end of a ramp, starts a lowering ramp, or starts
or stops the hold (R138 to R140). -/
theorem State.gradeChanged_graded (hon : s.trc.scanOn = true) (hb : s.trc.braking = false)
    (hm : s.trc.motion = .approaching ∨ s.trc.motion = .cruising) (h0 : r ≠ .s0) :
    s.gradeChanged r = s.setTrc (
      if s.trc.ramp ≠ none then s.trc
      else if r.num < s.trc.current.num then { s.trc with hold := false, ramp := some r }
      else if s.trc.current.num < r.num then { s.trc with hold := true }
      else { s.trc with hold := false }) := by
  have hp : s.trc.motion ≠ .parked := by
    rcases hm with h | h <;> simp [h]
  unfold State.gradeChanged State.regrade
  rw [if_neg (by simp [hon]), if_neg (by simp [hb, hp]), if_pos (by simpa [Trc.graded] using hm), if_neg h0]
  by_cases hr : s.trc.ramp = none
  · rw [if_neg (by simp [hr]), if_neg (not_not.mpr hr)]
    by_cases hl : r.num < s.trc.current.num
    · rw [if_pos hl, if_pos hl]
    · rw [if_neg hl, if_neg hl, apply_ite s.setTrc]
  · rw [if_pos (by simpa [Option.isSome_iff_ne_none] using hr), if_pos hr]
    rfl

/-- A backtrack goes on under a grade above S0 (R141). -/
theorem State.gradeChanged_backtracking (hon : s.trc.scanOn = true) (hb : s.trc.braking = false)
    (hm : s.trc.motion = .backtracking) (h0 : r ≠ .s0) : s.gradeChanged r = s := by
  unfold State.gradeChanged
  rw [if_neg (by simp [hon]), if_neg (by simp [hb, hm]), if_neg (by simp [Trc.graded, hm]), if_neg h0]

/-- S0 in an approach or a backtrack: the carriage brakes (R137, R141). -/
theorem State.gradeChanged_brakes (hon : s.trc.scanOn = true) (hb : s.trc.braking = false)
    (hm : s.trc.motion = .approaching ∨ s.trc.motion = .backtracking) : s.gradeChanged .s0 = s.brake := by
  unfold State.gradeChanged State.regrade
  rw [if_neg (by simp [hon])]
  rcases hm with h | h
  · rw [if_neg (by simp [hb, h]), if_pos (by simp [Trc.graded, h]), if_pos rfl, if_neg (by simp [h])]
  · rw [if_neg (by simp [hb, h]), if_neg (by simp [Trc.graded, h]), if_pos rfl]

/-- S0 while the carriage cruises halts the scan (R136). -/
theorem State.gradeChanged_halts (hon : s.trc.scanOn = true) (hb : s.trc.braking = false)
    (hm : s.trc.motion = .cruising) : s.gradeChanged .s0 = s.halt := by
  unfold State.gradeChanged State.regrade
  rw [if_neg (by simp [hon]), if_neg (by simp [hb, hm]), if_pos (by simp [Trc.graded, hm]), if_pos rfl, if_pos hm]

/-- A halt of a carriage that cruises forward: the gate is shut, the resume line is the first line not started, and
the carriage brakes for the steps of the grade it had (R130, R136). -/
theorem State.halt_steps (hm : s.trc.motion = .cruising) (hd : s.trc.dir = .forward)
    (hp : s.trc.position.toNat < 65535) (hc : 0 < s.trc.current.num) :
    s.halt = (s.setCap { s.cap with gateOpen := false }).setTrc { s.trc with
      resumeLine := s.cap.nextLine
      resumePos := s.scn.setup.p0 + s.cap.nextLine
      braking := true
      ramp := none
      hold := false
      holdDone := false
      target := none
      current := .s0
      brakesLeft := s.trc.current.num
      interval := 2 * s.trc.interval } := by
  have hcan : s.trc.canStep s.trc.dir = true := by simp [Trc.canStep, Config.maxHalf, hd, hp]
  have hsteps : s.trc.brakeSteps = s.trc.current.num := if_pos (by simp [Trc.graded, hm])
  unfold State.halt
  dsimp only
  rw [State.brake_steps (by exact hcan) (by exact hsteps) hc]
  rfl

end transport

/-! ## Posting a demand -/

/-- The HALTED condition reads the operation state and the demands of the ring and of the Frame Table: an update of
the Capture Unit and of the rest of the carriage may come before its evaluation or after it (R145). -/
theorem State.evalHalted_update {s : State} (c : Cap) {y : Trc} (hr : y.ring = s.trc.ring)
    (ht : y.table = s.trc.table) : (s.evalHalted.setCap c).setTrc y = ((s.setCap c).setTrc y).evalHalted := by
  have hh : ((s.setCap c).setTrc y).haltedNow = s.haltedNow := by
    unfold State.haltedNow
    rw [State.setTrc_trc, hr, ht]
    rfl
  rw [State.evalHalted_form, State.evalHalted_form, hh]
  rfl

/-- A demand that leaves the resolved grade is kept, and that is all (R135). -/
theorem State.post_same {s : State} {src : Source} {g : Grade}
    (h : (s.trc.keep src g).resolved = s.trc.resolved) : s.post src g = (s.setTrc (s.trc.keep src g)).evalHalted := by
  have ht : (s.setTrc (s.trc.keep src g)).evalHalted.trc = s.trc.keep src g := by
    rw [State.evalHalted_form]
    rfl
  unfold State.post
  dsimp only
  rw [ht, if_pos h]

/-- A demand that changes the resolved grade acts on the carriage as `State.gradeChanged` says (R135, R145). -/
theorem State.post_changed {s : State} {src : Source} {g : Grade} {x y : Trc} {c : Cap} (hx : s.trc.keep src g = x)
    (h : x.resolved ≠ s.trc.resolved)
    (hy : ∀ u : State, u.trc = x → u.cap = s.cap → u.scn = s.scn → u.gradeChanged x.resolved = (u.setCap c).setTrc y) :
    s.post src g = ((s.setCap c).setTrc y).evalHalted := by
  have hkeep : (s.setTrc x).gradeChanged x.resolved = ((s.setTrc x).setCap c).setTrc y := hy _ rfl rfl rfl
  have hstill := (State.still_gradeChanged (s.setTrc x) x.resolved).symm.trans (congrArg State.still hkeep)
  have hring : y.ring = x.ring := (congrArg Still.ring hstill).symm
  have htable : y.table = x.table := (congrArg Still.table hstill).symm
  have ht : (s.setTrc x).evalHalted.trc = x := by
    rw [State.evalHalted_form]
    rfl
  have hc : (s.setTrc x).evalHalted.cap = s.cap := by
    rw [State.evalHalted_form]
    rfl
  have hn : (s.setTrc x).evalHalted.scn = s.scn := by
    rw [State.evalHalted_form]
    rfl
  unfold State.post
  dsimp only
  rw [hx, ht, if_neg h, hy _ ht hc hn, State.evalHalted_update (s := s.setTrc x) c hring htable]
  rfl

/-! ## SPEED_CAP -/

theorem Trc.resolved_cap_s0 (t : Trc) : ({ t with cap := .s0 } : Trc).resolved = .s0 := by
  have hmin (a b : Grade) : a.min (b.min .s0) = .s0 := by cases a <;> cases b <;> rfl
  exact hmin _ _

theorem gradeOf_min (n : Nat) : gradeOf (min 3 n) = gradeOf n := by
  match n with
  | 0 | 1 | 2 => rfl
  | n + 3 => rw [Nat.min_eq_left (by omega)]; rfl

theorem num_gradeOf (n : Nat) : (gradeOf n).num = min 3 n := by
  match n with
  | 0 | 1 | 2 => rfl
  | n + 3 => rw [Nat.min_eq_left (by omega)]; rfl

/-- SPEED_CAP, taken in every operation state, posts its cap and replies with it (R134). -/
theorem Ready.speedCap {s u : State} (h : Ready s) (tag b : Byte)
    (hu : ∀ r, (s.atDispatch r).post .cap (gradeOf (min 3 b.toNat)) = (u.atDispatch r).evalHalted)
    (hl : u.lif = s.lif) :
    ∃ t, exec (.speedCap tag [b]) s = .next t ∧
      Replied u.evalHalted t ⟨0x8D#8, tag, [0#8, byte (min 3 b.toNat)]⟩ := by
  refine ⟨_, rfl, h.taken (k := .speedCap) (by simp [Config.receiveLimit]) (refusesNow_eq_false rfl (.inl rfl)) rfl
    ?_ ?_⟩
  · show State.answer ((s.atDispatch _).post .cap (gradeOf b.toNat)) (okReply [byte (gradeOf b.toNat).num]) = _
    rw [num_gradeOf, ← gradeOf_min, hu, State.evalHalted_form, State.evalHalted_form]
    rfl
  · rw [State.evalHalted_form]
    exact (congrArg Lif.resetPending hl).trans h.noReset

/-- Settles O27: by what the resolved grade becomes and what the carriage does. -/
theorem speedCapPostsItsDemand : Obligations.SpeedCapPostsItsDemand := by
  intro tag b s hr
  refine ⟨fun hoff => ?off, fun x y hon hx hy => ?on, fun hon hm hb h0 hc hd hp => ?halts⟩
  case off => exact hr.speedCap tag b (fun r => State.post_off (s.atDispatch r) hoff) rfl
  case on =>
    have posts (change : x.resolved ≠ s.trc.resolved)
        (acts : ∀ u : State, u.trc = x → u.gradeChanged x.resolved = u.setTrc y) :
        ∃ t, exec (.speedCap tag [b]) s = .next t ∧
          Replied (s.setTrc y).evalHalted t ⟨0x8D#8, tag, [0#8, byte (min 3 b.toNat)]⟩ := by
      refine hr.speedCap tag b (fun r => ?_) rfl
      refine State.post_changed (s := s.atDispatch r) (c := s.cap) hx.symm change fun u hu hcap _ => ?_
      rw [← State.atDispatch_cap s r, ← hcap]
      exact acts u hu
    have hscan (u : State) (hu : u.trc = x) : u.trc.scanOn = true := by rw [hu, hx]; exact hon
    obtain ⟨same, rfl⟩ | ⟨change, h0, hb, hm, rfl⟩ | ⟨change, h0, hb, hm, rfl⟩ | ⟨change, h0, hm, rfl⟩ |
      ⟨change, h0, hm, rfl⟩ | ⟨change, h0, hb, hm, hlo, hhi, rfl⟩ := hy
    · subst hx
      exact hr.speedCap tag b (fun r => State.post_same (s := s.atDispatch r) same) rfl
    · refine posts change fun u hu => ?_
      rw [State.gradeChanged_graded (hscan u hu) (hu ▸ hb) (hu ▸ hm) h0, hu]
    · refine posts change fun u hu => ?_
      rw [State.gradeChanged_backtracking (hscan u hu) (hu ▸ hb) (hu ▸ hm) h0, ← hu]
      rfl
    · refine posts change fun u hu => ?_
      rw [State.gradeChanged_halted (hscan u hu) (hu ▸ hm), if_neg h0, hu]
    · refine posts change fun u hu => ?_
      rw [State.gradeChanged_halted (hscan u hu) (hu ▸ hm), if_pos h0, hu]
    · refine posts change fun u hu => ?_
      subst hu
      have hrun : u.trc.motion = .approaching ∨ u.trc.motion = .backtracking := hm.imp_left And.left
      have hcan : u.trc.canStep u.trc.dir = true := by
        cases hd : u.trc.dir <;> simp [Trc.canStep, Config.maxHalf, hlo, hhi]
      have hsteps : u.trc.brakeSteps = if u.trc.motion = .approaching then u.trc.current.num else 3 := by
        rcases hrun with h | h <;> simp [Trc.brakeSteps, Trc.graded, h]
      have hpos : 0 < if u.trc.motion = .approaching then u.trc.current.num else 3 := by
        rcases hm with ⟨h, hc⟩ | h
        · rw [if_pos h]
          revert hc
          cases u.trc.current <;> simp [Grade.num]
        · rw [if_neg (by simp [h])]
          decide
      rw [h0, State.gradeChanged_brakes (hscan u rfl) hb hrun, State.brake_steps hcan hsteps hpos]
  case halts =>
    have hzero : ({ s.trc with cap := .s0 } : Trc).resolved = .s0 := s.trc.resolved_cap_s0
    have hgo : 0 < s.trc.current.num := by
      revert hc
      cases s.trc.current <;> simp [Grade.num]
    refine hr.speedCap tag 0#8 (u := State.setTrc _ _) (fun r => ?_) rfl
    refine State.post_changed (s := s.atDispatch r) (x := { s.trc with cap := .s0 }) rfl
      (fun e => h0 (e.symm.trans hzero)) fun u hu hcap hscn => ?_
    rw [hzero, State.gradeChanged_halts (by rw [hu]; exact hon) (by rw [hu]; exact hb) (by rw [hu]; exact hm),
      State.halt_steps (by rw [hu]; exact hm) (by rw [hu]; exact hd) (by rw [hu]; exact hp) (by rw [hu]; exact hgo),
      hu, hcap, hscn]
    rfl

/-! ## HOME -/

/-- HOME of a carriage that does not brake: the position is INVALID and the homing steps begin (R132). -/
theorem State.actHome_begins {s : State} (hb : s.trc.braking = false) : s.actHome =
    (((s.setScn { s.scn with op := .positioning }).setNtu { s.ntu with haltedCond := false }).setTrc { s.trc with
      valid := false
      motion := .homing
      target := none
      homing := some ⟨if s.pins.home then .leaving else .seeking, 0⟩
      dir := if s.pins.home then .forward else .backward
      interval := s.scn.setup.lp }).answer (okReply [1#8, 1#8]) := by
  unfold State.actHome
  simp only [State.setOp_form s (op := .positioning) (by decide)]
  rw [if_neg (by simp [hb])]
  rfl

/-- HOME of a carriage that brakes waits for the stop event (R130; log 11). -/
theorem State.actHome_waits {s : State} (hb : s.trc.braking = true) : s.actHome =
    (((s.setScn { s.scn with op := .positioning }).setNtu { s.ntu with haltedCond := false }).setTrc { s.trc with
      valid := false, queued := some .home }).answer (okReply [1#8, 1#8]) := by
  unfold State.actHome
  simp only [State.setOp_form s (op := .positioning) (by decide)]
  rw [if_pos hb]
  rfl

/-- Settles O29: the carriage brakes, or it does not. -/
theorem homeBeginsToSeek : Obligations.HomeBeginsToSeek := by
  intro tag s hr ho he
  have takes : s.refusesNow .home = false := refusesNow_eq_false (by simpa [Kind.takenIn] using ho) (.inr he)
  refine ⟨fun hb => ?_, fun hb => ?_⟩
  · refine ⟨_, rfl, hr.taken (k := .home) (by simp) takes rfl ?_ hr.noReset⟩
    exact State.actHome_begins (s := s.atDispatch _) hb
  · refine ⟨_, rfl, hr.taken (k := .home) (by simp) takes rfl ?_ hr.noReset⟩
    exact State.actHome_waits (s := s.atDispatch _) hb

/-! ## MOVE -/

theorem dirTo_of_ne {p n : Nat} (h : p ≠ n) : dirTo p n = if p < n then .forward else .backward := by
  unfold dirTo
  by_cases hl : p < n
  · rw [if_pos hl, if_pos hl.le]
  · rw [if_neg hl, if_neg (by omega)]

/-- A move to another position begins (R133). -/
theorem State.beginMove_moving {s : State} {n : Nat} (hn : s.trc.position.toNat ≠ n) : s.beginMove n =
    s.setTrc { s.trc with
      motion := .moving
      target := some n
      dir := if s.trc.position.toNat < n then .forward else .backward
      interval := s.scn.setup.lp } := by
  unfold State.beginMove
  rw [if_neg hn, dirTo_of_ne hn]
  rfl

/-- A MOVE to the position held arrives at once: IDLE, and the carriage is PARKED (R133). -/
theorem State.beginMove_arrives {s : State} {n : Nat} (hn : s.trc.position.toNat = n) (ho : s.scn.op = .positioning)
    (hc : s.cap.cal = none) : s.beginMove n =
    ((s.setScn { s.scn with op := .idle }).setNtu { s.ntu with haltedCond := false }).setTrc
      { s.trc with motion := .parked, target := none, interval := 0 } := by
  unfold State.beginMove State.moveArrived
  rw [if_pos hn, State.moveComplete_move (by exact ho) (by exact hc)]
  rfl

/-- So does the MOVE that is taken there by a carriage that does not brake. -/
theorem State.takeMove_arrives {s : State} (hb : s.trc.braking = false) {n : Nat} (hn : s.trc.position.toNat = n)
    (hc : s.cap.cal = none) : s.takeMove n =
    ((s.setScn { s.scn with op := .idle }).setNtu { s.ntu with haltedCond := false }).setTrc
      { s.trc with motion := .parked, target := none, interval := 0 } := by
  unfold State.takeMove
  simp only [State.setOp_form s (op := .positioning) (by decide)]
  rw [if_neg (by simp [hb]), State.beginMove_arrives (by exact hn) (by rfl) (by exact hc)]
  rfl

/-- A MOVE taken in IDLE acts as `State.actMove` says (R133, R179). -/
theorem Ready.move {s u : State} (h : Ready s) (tag : Byte) {p reply : List Byte} (hl : p.length = 2)
    (ho : s.scn.op = .idle) (he : s.scn.endWaits = false)
    (ha : ∀ r, (s.atDispatch r).actMove p = (u.atDispatch r).answer reply) (hu : u.lif.resetPending = false) :
    ∃ t, exec (.move tag p) s = .next t ∧ Replied u t ⟨0x92#8, tag, reply⟩ :=
  ⟨_, rfl, h.taken (k := .move) (by simp [hl, Config.receiveLimit])
    (refusesNow_eq_false (by simp [Kind.takenIn, ho]) (.inr he))
    (by simp [Kind.formOk, Kind.length, Kind.choicesOk, hl]) (ha _) hu⟩

/-- A MOVE from a VALID position is taken, and replies with the states that result; that of a carriage that brakes
replies MOVING (R133, R184; log 11). -/
theorem State.actMove_valid {s u : State} {p : List Byte} {m : Motion} (hv : s.trc.valid = true)
    (hu : s.takeMove (u16 p 0) = u)
    (hm : s.trc.braking = true ∧ m = .moving ∨ s.trc.braking = false ∧ u.trc.motion = m) :
    s.actMove p = u.answer (okReply [u.scn.op.code, m.code]) := by
  have hreplied : (if s.trc.braking then Motion.moving else u.trc.motion) = m := by
    obtain ⟨hb, rfl⟩ | ⟨hb, rfl⟩ := hm
    · rw [if_pos hb]
    · rw [if_neg (by simp [hb])]
  subst hu
  rw [← hreplied]
  exact if_pos hv

/-- Settles O30: refused, waiting, begun, or arrived. -/
theorem moveBeginsOrArrives : Obligations.MoveBeginsOrArrives := by
  intro tag p s hr hl ho he
  refine ⟨fun hv => ?refused, fun hb hv => ?waits, fun hb hv hn => ?begins, fun hb hc hv hn => ?arrives⟩
  case refused => exact hr.move tag hl ho he (fun r => if_neg (by simp [hv])) hr.noReset
  case waits =>
    exact hr.move tag hl ho he (fun r => State.actMove_valid (s := s.atDispatch r) hv
      (State.takeMove_braking (s := s.atDispatch r) hb _) (.inl ⟨hb, rfl⟩)) hr.noReset
  case begins =>
    exact hr.move tag hl ho he (fun r => State.actMove_valid (s := s.atDispatch r) hv
      (State.takeMove_moving (s := s.atDispatch r) hb hn) (.inr ⟨hb, rfl⟩)) hr.noReset
  case arrives =>
    have hidle : { s.scn with op := .idle } = s.scn := by rw [← ho]
    refine hr.move tag hl ho he (fun r => ?_) hr.noReset
    rw [State.actMove_valid (s := s.atDispatch r) hv (State.takeMove_arrives (s := s.atDispatch r) hb hn hc)
      (.inr ⟨hb, rfl⟩), State.atDispatch_scn, hidle]
    exact congrArg (fun o : OpState => State.answer _ [0#8, o.code, 0#8]) ho

end Sys2Proof.Machine

/-! PROOF. The HOME input: its edge and the end of its level, and a HOME move that reaches the step limit (O41). -/

namespace Sys2Proof.Machine

open Sys2Proof

/-! ## The edge and the end of the level -/

/-- Where no HOME move seeks, or the input is active already, the edge is only its level (R132; log 29). -/
theorem State.homeRises_level {s : State} (h : s.pins.home = true ∨ s.trc.motion ≠ .homing ∨ s.trc.braking = true ∨
    s.trc.homing.map (·.phase) ≠ some .seeking) : s.homeRises = s.setPins { s.pins with home := true } := by
  have hseeks : s.seeksEdge = false := by
    unfold State.seeksEdge
    rcases h with h | h | h | h <;> simp [h]
  exact if_neg (by simp [hseeks])

/-- Where no HOME move leaves the stop, the end of the level is only the level (R132). -/
theorem State.homeFalls_level {s : State} (h : s.trc.motion ≠ .homing ∨ s.trc.braking = true ∨
    s.trc.homing.map (·.phase) ≠ some .leaving) : s.homeFalls = s.setPins { s.pins with home := false } := by
  unfold State.homeFalls
  dsimp only
  split
  · rename_i n hh
    refine if_neg ?_
    rintro ⟨hm, hb⟩
    rcases h with h | h | h
    · exact h hm
    · rw [hb] at h
      cases h
    · exact h (by rw [hh]; rfl)
  · rfl

/-- A HOME move that leaves the stop turns to seek it (R132). -/
theorem State.homeFalls_turns {s : State} {n : Nat} (hm : s.trc.motion = .homing) (hb : s.trc.braking = false)
    (hh : s.trc.homing = some ⟨.leaving, n⟩) : s.homeFalls = (s.setPins { s.pins with home := false }).setTrc {
      s.trc with homing := some ⟨.seeking, n⟩, dir := .backward } := by
  unfold State.homeFalls
  rw [hh]
  exact if_pos ⟨hm, hb⟩

/-- The carriage that a HOME edge, a step limit or an END edge stops at once (R131, R132). -/
def Trc.stoppedAtOnce (t : Trc) : Trc := { t with
  motion := .parked
  homing := none
  target := none
  ramp := none
  hold := false
  holdDone := false
  current := .s0
  brakesLeft := 0
  interval := 0
  queued := none }

theorem State.stopAtOnce_form {s : State} (hb : s.trc.braking = false) :
    s.stopAtOnce = s.setTrc s.trc.stoppedAtOnce :=
  congrArg (fun b => s.setTrc { s.trc.stoppedAtOnce with braking := b }) hb.symm

/-- The HOME edge of a HOME that seeks: position 0, VALID, and the device is IDLE (R132). -/
theorem State.homeRises_arrives {s : State} {n : Nat} (ho : s.scn.op = .positioning) (hc : s.cap.cal = none)
    (hb : s.trc.braking = false) (hm : s.trc.motion = .homing) (hh : s.trc.homing = some ⟨.seeking, n⟩)
    (hp : s.pins.home = false) : s.homeRises =
    (((s.setPins { s.pins with home := true }).setScn { s.scn with op := .idle }).setNtu { s.ntu with
      haltedCond := false }).setTrc { s.trc.stoppedAtOnce with position := 0, valid := true } := by
  have hseeks : s.seeksEdge = true := by simp [State.seeksEdge, hp, hm, hb, hh]
  unfold State.homeRises
  dsimp only
  rw [if_pos hseeks]
  unfold State.homeArrives
  dsimp only
  rw [State.stopAtOnce_form (by exact hb), State.moveComplete_move (by exact ho) (by exact hc)]
  rfl

/-! ## The step limit -/

/-- A fault that ends a HOME: the FAULT is placed at once (R159, R163). -/
theorem State.moveFault_settles {s v : State} (kind : FaultKind) (hs : s.settleStep = none)
    (hopen : s.reportsOpen = true) (ho : s.scn.op = .positioning) (hc : v.cap.cal = none) (hv : v.scn = s.scn)
    (hre : v.reactive = s.reactive) (hl : v.lif.reports = s.lif.reports) :
    (v.moveFault kind).settle = ((v.setScn { s.scn with op := .faulted }).setNtu { v.ntu with
      haltedCond := false }).pushReport (v.faultRecord ⟨kind, .positioning, 0⟩) := by
  obtain ⟨hdue, -⟩ := State.nothingDue hs hopen
  generalize ht : (v.setScn { s.scn with op := .faulted, due := [.fault ⟨kind, .positioning, 0⟩] }).setNtu {
    v.ntu with haltedCond := false } = t
  have hfault : v.moveFault kind = t := by
    unfold State.moveFault State.endCalRun
    rw [if_neg (by simp [hc]), State.setOp_form _ (by decide), ← ht, hv, ho, hdue]
    rfl
  obtain ⟨h1, h2⟩ := State.settle_fault (f := ⟨kind, .positioning, 0⟩) (t := t) hs hopen
    (by rw [← hre, ← ht, ← hv]; rfl) (by rw [← ht]; rfl)
    (by rw [← ht]; exact hl ▸ (State.reportsOpen_iff.mp hopen).1)
  have hnone : ({ s.scn with op := .faulted } : Scn) = { s.scn with op := .faulted, due := [] } :=
    congrArg (fun d => ({ s.scn with op := .faulted, due := d } : Scn)) hdue
  rw [hfault, State.settle_one h1 h2, hnone, ← ht]
  rfl

/-- A fault of a move leaves the carriage as it stands (R159). -/
theorem State.moveFault_trc (s : State) (kind : FaultKind) : (s.moveFault kind).trc = s.trc := by
  unfold State.moveFault State.endCalRun
  rw [State.setOp_form _ (by decide)]
  split <;> rfl

/-- The 65,535th step of a HOME without its edge: the carriage stops at once, and the HOME has failed (R132). -/
theorem State.StepsTo.homeFails {s : State} {next : Half} {e : Nat} {phase : HomingPhase} (h : s.StepsTo next)
    (hg : s.cap.gateOpen = false) (hb : s.trc.braking = false) (hm : s.trc.motion = .homing)
    (hh : s.trc.homing = some ⟨phase, 65534⟩) (ho : s.scn.op = .positioning) :
    s.intervalExpires e =
      (s.setTrc { s.trc.stoppedAtOnce with position := next }).moveFault .homeFailed := by
  have hstop : ((s.setTrc { s.trc with position := next, homing := some ⟨phase, 65535⟩ }).stopAtOnce).moveFault
      .homeFailed = (s.setTrc { s.trc.stoppedAtOnce with position := next }).moveFault .homeFailed := by
    rw [State.stopAtOnce_form (by exact hb)]
    rfl
  have hstep : s.homingStep = (s.setTrc { s.trc.stoppedAtOnce with position := next }).moveFault .homeFailed := by
    unfold State.homingStep State.homeFailed
    simp only [h.stepOnce hg, State.setTrc_trc, hh]
    rw [if_pos (by decide), if_pos (by exact ho)]
    exact hstop
  rw [h.intervalExpires (by simp [hm]) hb (by simp [hm]), State.motionStep_homing hm, hstep,
    State.startInterval_parked (by rw [State.moveFault_trc]; rfl)]

/-- The 65,535th step of a HOME is that of HOME_STEP_LIMIT, too (R132; log 17). -/
theorem State.homeLimit_steps {s : State} {phase : HomingPhase} (hb : s.trc.braking = false)
    (hm : s.trc.motion = .homing) (hh : s.trc.homing = some ⟨phase, 65534⟩) :
    s.homeLimit = s.intervalExpires 0 := by
  unfold State.homeLimit
  rw [hh]
  dsimp only
  rw [if_pos ⟨hm, hb, by decide⟩, if_neg (by decide)]

/-- The FAULT of a HOME that has failed, with the position INVALID (R164). -/
theorem State.faultRecord_homeFailed {s : State} (hv : s.trc.valid = false) :
    s.faultRecord ⟨.homeFailed, .positioning, 0⟩ =
      ⟨0x45#8, 0#8, [3#8, 1#8, 0#8, 0#8, byte s.trc.position.toNat, byte (s.trc.position.toNat / 256), 0#8]⟩ := by
  simp only [State.faultRecord, State.faultLine, hv]
  rfl

/-- Settles O41. -/
theorem homingFollowsTheInput : Obligations.HomingFollowsTheInput := by
  intro s hq
  have row {c : Instr} {u v : State} (he : exec c s = .next u.finish) (hu : u = v) (hf : v.finish = v) :
      exec c s = .next v := by rw [he, hu, hf]
  refine ⟨fun h => ?rises, fun h => ?falls, fun ho hc hb => ⟨fun n arrived hm hh hp ha => ?arrives,
    fun n hm hh => ?turns, fun phase next elapsed c hi hm hh hstep hv hg hopen => ?fails⟩⟩
  case rises => exact row rfl (State.homeRises_level h) (State.finish_of_still hq rfl rfl rfl rfl)
  case falls => exact row rfl (State.homeFalls_level h) (State.finish_of_still hq rfl rfl rfl rfl)
  case arrives =>
    subst ha
    exact row rfl (State.homeRises_arrives ho hc hb hm hh hp) (State.finish_of_quiet hq rfl rfl rfl)
  case turns =>
    exact row rfl (State.homeFalls_turns hm hb hh) (State.finish_of_quiet hq rfl rfl (by simp [ho, OpState.plain]))
  case fails =>
    have hsteps : s.StepsTo next := by
      obtain ⟨-, hd, hn⟩ | ⟨-, hd, he, hn⟩ := hstep
      · exact .inr ⟨hd, hn, by simp [hv]⟩
      · exact .inl ⟨hd, he, hn, by simp [hv]⟩
    have hrow : ∃ e, exec c s = .next (s.intervalExpires e).finish := by
      obtain rfl | rfl := hi
      · exact ⟨0, congrArg (fun u : State => Host.Outcome.next u.finish) (State.homeLimit_steps hb hm hh)⟩
      · exact ⟨elapsed, rfl⟩
    obtain ⟨e, hrow⟩ := hrow
    rw [hrow, hsteps.homeFails hg hb hm hh ho]
    refine congrArg (fun u : State => Host.Outcome.next u.arbitrate) ?_
    rw [State.moveFault_settles (v := s.setTrc { s.trc.stoppedAtOnce with position := next }) .homeFailed hq.settled
      hopen ho hc rfl rfl rfl, State.faultRecord_homeFailed (by exact hv)]
    rfl

end Sys2Proof.Machine

/-! PROOF. The ends of a braking, of the hold and of a ramp step (O46, O47, O48). -/

namespace Sys2Proof.Machine

open Sys2Proof

/-! ## The stop event -/

/-- What the backtrack makes of a carriage that stands: BACKTRACKING toward its target at LP, or, where it stands at
the target already, APPROACHING at the resolved grade (R141, R142). -/
def Trc.backtracks (t : Trc) (lp : Nat) : Trc :=
  if t.position.toNat = t.resumePos - 48 then
    { t with
      hold := false
      holdDone := false
      motion := .approaching
      target := some t.resumePos
      current := t.resolved
      ramp := none
      dir := .forward
      interval := t.resolved.period lp }
  else
    { t with
      hold := false
      holdDone := false
      motion := .backtracking
      target := some (t.resumePos - 48)
      dir := if t.position.toNat < t.resumePos - 48 then .forward else .backward
      interval := lp }

/-- The backtrack changes the carriage only (R141). -/
theorem State.beginBacktrack_form (s : State) :
    s.beginBacktrack = s.setTrc (s.trc.backtracks s.scn.setup.lp) := by
  unfold State.beginBacktrack Trc.backtracks
  by_cases h : s.trc.position.toNat = s.trc.resumePos - 48
  · rw [if_pos h, if_pos (by exact h)]
    rfl
  · rw [if_neg h, if_neg (by exact h), ← dirTo_of_ne h]
    rfl

/-- What scan transport makes of a carriage that stands: it waits for the lamp and for a grade, holds, or, where the
hold is over, backtracks (R141). -/
def Trc.resumes (t : Trc) (lp : Nat) : Trc :=
  if t.lampReady = false ∨ t.resolved = .s0 then t
  else if t.holdDone = false then { t with hold := true }
  else t.backtracks lp

theorem State.resumeAtRest_form {s : State} (hon : s.trc.scanOn = true) :
    s.resumeAtRest = s.setTrc (s.trc.resumes s.scn.setup.lp) := by
  unfold State.resumeAtRest Trc.resumes
  by_cases h : s.trc.lampReady = false ∨ s.trc.resolved = .s0
  · rw [if_pos h, if_neg (by rcases h with h | h <;> simp [h])]
    rfl
  · rw [if_neg h, if_pos (by simpa [hon] using h)]
    by_cases hd : s.trc.holdDone = true
    · rw [if_pos hd, if_neg (by simp [hd]), State.beginBacktrack_form]
    · rw [if_neg hd, if_pos (by simpa using hd)]

/-- The carriage that a stop event leaves (R130). -/
def Trc.halted (t : Trc) : Trc := { t.parkedNow with queued := none }

section stopEvent

variable {s : State}

/-- With no command queued, scan transport goes on (R130, R141). -/
theorem State.stopEvent_none (hq : s.trc.queued = none) : s.stopEvent = (s.setTrc s.trc.halted).resumeAtRest := by
  unfold State.stopEvent
  dsimp only
  rw [hq]
  rfl

/-- Outside scan transport the carriage stands (R130). -/
theorem State.stopEvent_stands (hq : s.trc.queued = none) (hoff : s.trc.scanOn = false) :
    s.stopEvent = s.setTrc s.trc.halted := by
  rw [State.stopEvent_none hq]
  exact if_neg (by simp [Trc.halted, Trc.parkedNow, hoff])

/-- In scan transport it waits, holds or backtracks (R141). -/
theorem State.stopEvent_transport (hq : s.trc.queued = none) (hon : s.trc.scanOn = true) :
    s.stopEvent = s.setTrc (s.trc.halted.resumes s.scn.setup.lp) := by
  rw [State.stopEvent_none hq, State.resumeAtRest_form (by exact hon)]
  rfl

/-- A HOME taken during the braking begins (R130, R132). -/
theorem State.stopEvent_home (hq : s.trc.queued = some .home) :
    s.stopEvent = (s.setTrc s.trc.halted).beginHoming := by
  unfold State.stopEvent
  dsimp only
  rw [hq]
  rfl

/-- A MOVE taken during the braking begins (R130, R133). -/
theorem State.stopEvent_move {n : Nat} (hq : s.trc.queued = some (.move n)) :
    s.stopEvent = (s.setTrc s.trc.halted).beginMove n := by
  unfold State.stopEvent
  dsimp only
  rw [hq]
  rfl

end stopEvent

/-! ## Braking steps -/

section braking

variable {s : State} {next : Half}

/-- A carriage that does not brake gives no braking step (log 3). -/
theorem State.brakingExpires_none (hb : s.trc.braking = false) : s.brakingExpires = s :=
  if_pos (by simp [hb])

/-- With END active a forward braking step is not issued, and the row is what the END edge is (R131). -/
theorem State.brakingExpires_end (hb : s.trc.braking = true) (hd : s.trc.dir = .forward)
    (he : s.pins.endStop = true) : s.brakingExpires = s.endRises := by
  have hp : s.setPins { s.pins with endStop := true } = s := by
    rw [← he]
    rfl
  unfold State.brakingExpires State.endRises
  rw [if_neg (by simp [hb]), if_pos ⟨hd, he⟩, hp, if_neg (by simp [Trc.standing, hb])]

/-- A braking step counts into the position, and the last one is the stop event (R130). -/
theorem State.StepsTo.brakingExpires (h : s.StepsTo next) (hg : s.cap.gateOpen = false) (hb : s.trc.braking = true)
    (hmore : ({ s.trc with position := next } : Trc).canStep s.trc.dir = true) : s.brakingExpires =
      if s.trc.brakesLeft - 1 = 0 then (s.setTrc { s.trc with position := next }).stopEvent
      else s.setTrc { s.trc with
        position := next
        brakesLeft := s.trc.brakesLeft - 1
        interval := 2 * s.trc.interval } := by
  unfold State.brakingExpires
  rw [if_neg (by simp [hb]), if_neg h.noEnd, if_neg (by simp [h.canStep]), h.stepOnce hg]
  by_cases hl : s.trc.brakesLeft - 1 = 0
  · rw [if_pos hl, if_pos (.inl hl)]
    rfl
  · rw [if_neg hl, if_neg]
    · rfl
    · rintro (h0 | h0)
      · exact hl h0
      · exact absurd (hmore.symm.trans h0) (by decide)

/-- A braking step that is not the last: each later interval is twice the one before (R130). -/
theorem State.StepsTo.brakes (h : s.StepsTo next) (hg : s.cap.gateOpen = false) (hb : s.trc.braking = true)
    (hmore : ({ s.trc with position := next } : Trc).canStep s.trc.dir = true) (hl : 2 ≤ s.trc.brakesLeft) :
    s.brakingExpires = s.setTrc { s.trc with
      position := next
      brakesLeft := s.trc.brakesLeft - 1
      interval := 2 * s.trc.interval } := by
  rw [h.brakingExpires hg hb hmore, if_neg (by omega)]

/-- The last braking step is the stop event (R130). -/
theorem State.StepsTo.stops (h : s.StepsTo next) (hg : s.cap.gateOpen = false) (hb : s.trc.braking = true)
    (hmore : ({ s.trc with position := next } : Trc).canStep s.trc.dir = true) (hl : s.trc.brakesLeft = 1) :
    s.brakingExpires = (s.setTrc { s.trc with position := next }).stopEvent := by
  rw [h.brakingExpires hg hb hmore, if_pos (by omega)]

end braking

/-! ## The end of a drain -/

/-- With no live frame, the Crop Output Engine has no step to take (R115). -/
theorem State.coeAdvance_noFrames {s : State} (h : s.frd.table = []) : s.coeAdvance = none := by
  have hnumber : s.frd.byNumber = fun _ => none := by
    unfold Frd.byNumber
    rw [h]
    rfl
  unfold State.coeAdvance
  rw [h, hnumber]
  cases s.coe.step <;> simp

/-- With nothing due at any producer, nothing is offered (R173). -/
theorem State.offering_none {s : State} (h : ∀ p, s.hasReport p = false) : s.offering = none := by
  unfold State.offering
  simp [h]

/-- With no marker in the queue, none is reached (R163). -/
theorem Scn.reachAll_noMarkers {c : Scn} (h : c.markers = []) (aborted : Bool) : c.reachAll aborted = c := by
  cases c
  cases h
  simp [Scn.reachAll]

/-- The drain has met its last condition: the reason is COMPLETE and SCAN_END is due (R154). -/
def State.drainEnded (s : State) : State :=
  (s.setCoe { s.coe with previewDone := true }).setScn { s.scn with
    drain := ⟨true, true, true, true, true⟩
    endReason := some .complete
    due := [.scanEnd] }

/-- A drain whose conditions all hold ends, with no marker and no report before its SCAN_END (R154). -/
theorem State.drainCheck_ends {s : State} (ho : s.scn.op = .draining) (he : s.scn.endReason = none)
    (hd : s.drainNow = ⟨true, true, true, true, true⟩) (hm : s.scn.markers = []) (hdue : s.scn.due = []) :
    s.drainCheck = some s.drainEnded := by
  unfold State.drainCheck
  rw [if_pos ⟨ho, he⟩, hd]
  dsimp only
  rw [if_neg (by simp [Drain.all]), if_pos rfl, if_pos (by rfl), Scn.reachAll_noMarkers (by exact hm)]
  exact congrArg (fun l => some ((s.setCoe { s.coe with previewDone := true }).setScn { s.scn with
    drain := ⟨true, true, true, true, true⟩, endReason := some .complete, due := l ++ [.scanEnd] })) hdue

/-- The SCAN_END of a drain that has met its last condition (R164). -/
theorem State.scanEndRecord_drainEnded {s : State} (hf : s.scn.endFault = none) : s.drainEnded.scanEndRecord =
    ⟨0x46#8, 0#8, [0#8, 0#8] ++ le16 s.scn.setup.n ++ le16 s.scn.captured ++ le16 s.scn.frames ++
      le16 s.scn.slivers ++ le16 s.scn.reseeks ++ [byte s.scn.abandoned] ++ s.frd.outside.bytes⟩ := by
  unfold State.scanEndRecord State.drainEnded
  dsimp only [State.setScn_scn]
  rw [hf]
  rfl

/-- The SCAN_END of a drain is placed, and the device is IDLE (R154, R163). -/
def State.drainPlaced (s : State) : State :=
  (((s.drainEnded.pushReport s.drainEnded.scanEndRecord).setScn { s.drainEnded.scn with
    op := .idle
    due := [] }).setNtu { s.ntu with haltedCond := false })

/-- What the end of a drain leaves, block by block (R154, R164). -/
theorem State.drainPlaced_form {s : State} {x : Trc} (hf : s.scn.endFault = none) (hdue : s.scn.due = []) :
    (s.setTrc x).drainPlaced = ((((s.setScn { s.scn with
      op := .idle
      drain := ⟨true, true, true, true, true⟩
      endReason := some .complete }).setNtu { s.ntu with haltedCond := false }).setCoe {
        s.coe with previewDone := true }).setTrc x).setLif { s.lif with
          reports := s.lif.reports ++ [⟨0x46#8, 0#8, [0#8, 0#8] ++ le16 s.scn.setup.n ++ le16 s.scn.captured ++
            le16 s.scn.frames ++ le16 s.scn.slivers ++ le16 s.scn.reseeks ++ [byte s.scn.abandoned] ++
            s.frd.outside.bytes⟩] } := by
  have hnone : ({ s.scn with
      op := .idle, drain := ⟨true, true, true, true, true⟩, endReason := some .complete } : Scn) = { s.scn with
      op := .idle, drain := ⟨true, true, true, true, true⟩, endReason := some .complete, due := [] } :=
    congrArg (fun d => ({ s.scn with
      op := .idle, drain := ⟨true, true, true, true, true⟩, endReason := some .complete, due := d } : Scn)) hdue
  unfold State.drainPlaced
  rw [State.scanEndRecord_drainEnded (by exact hf), hnone]
  rfl

/-- That is how the Scan Controller places it. -/
theorem State.placeScn_drainEnded {s : State} (ho : s.scn.op = .draining) : s.drainEnded.placeScn = s.drainPlaced := by
  have hplace : s.drainEnded.placeScn =
      if s.scn.op = .draining then
        ((s.drainEnded.pushReport s.drainEnded.scanEndRecord).setScn { s.drainEnded.scn with due := [] }).setOp .idle
      else (s.drainEnded.pushReport s.drainEnded.scanEndRecord).setScn { s.drainEnded.scn with due := [] } := rfl
  rw [hplace, if_pos ho, State.setOp_form _ (by decide)]
  rfl

/-- A drain for which only the stop of the carriage was missing ends: its SCAN_END is placed (R154, R164). -/
theorem State.drain_settles {s v : State} (hs : s.settleStep = none) (hopen : s.reportsOpen = true)
    (hre : v.reactive = s.reactive) (hl : v.lif = s.lif) (ho : v.scn.op = .draining) (he : v.scn.endReason = none)
    (hd : v.drainNow = ⟨true, true, true, true, true⟩) (hframes : v.frd.table = []) (hm : v.scn.markers = []) :
    v.settle = v.drainPlaced := by
  obtain ⟨hdue, -⟩ := State.nothingDue hs hopen
  have hdue : v.scn.due = [] := (congrArg Reactive.due hre).trans hdue
  have hreports (p : Producer) : v.hasReport p = false := by
    rw [← State.noReport hs hopen p]
    simp only [State.reactive, Reactive.mk.injEq] at hre
    obtain ⟨hc, hf, -, -, -, -, -, he, -, hr⟩ := hre
    rw [State.hasReport_eq hc hf he hr]
  have still (t : State) (h1 : t.frd = v.frd) (h2 : t.scn.markers = v.scn.markers) :
      t.coeAdvance = none ∧ t.testMarker = none :=
    ⟨State.coeAdvance_noFrames (by rw [h1]; exact hframes), State.testMarker_none_iff.mpr (by rw [h2, hm]; rfl)⟩
  have hends : v.settleStep = some v.drainEnded := by
    obtain ⟨h1, h2⟩ := still v rfl rfl
    unfold State.settleStep
    rw [h1, h2, State.drainCheck_ends ho he hd hm hdue]
  have hplaced : v.drainEnded.settleStep = some v.drainPlaced := by
    obtain ⟨h1, h2⟩ := still v.drainEnded rfl rfl
    rw [← State.placeScn_drainEnded ho]
    refine State.settleStep_scn h1 h2 (State.drainCheck_none (.inr nofun)) (fun p hp => ?_) nofun ?_
    · cases p with
      | cap => exact hreports .cap
      | frd => exact hreports .frd
      | coe => exact hreports .coe
      | scn => exact absurd rfl hp
    · exact (congrArg (fun l : Lif => decide (l.reports.length < Config.reportCapacity) && decide (l.waitList = []))
        hl).trans hopen
  have hquiet : v.drainPlaced.settleStep = none := by
    obtain ⟨h1, h2⟩ := still v.drainPlaced rfl rfl
    obtain ⟨h3, h5⟩ := State.plain_settles (s := v.drainPlaced) rfl
    refine State.settleStep_none_iff.mpr ⟨h1, h2, h3, State.offering_none fun p => ?_, h5⟩
    cases p with
    | cap => exact hreports .cap
    | frd => exact hreports .frd
    | coe => exact hreports .coe
    | scn => rfl
  exact State.settle_two hends hplaced hquiet

/-- Settles O46: by the braking steps left, the queued command and the operation state. -/
theorem brakingStepsEndInTheStop : Obligations.BrakingStepsEndInTheStop := by
  intro next s
  refine ⟨rfl, fun hb hd he => ?_, fun hq hb => ?_, fun hq hg hb hstep => ?_⟩
  · exact congrArg (fun u : State => Host.Outcome.next u.finish) (State.brakingExpires_end hb hd he)
  · refine congrArg Host.Outcome.next ?_
    rw [show (s.endFell false).brakingExpires = s from State.brakingExpires_none hb, State.finish_quiet hq]
  have h : s.StepsTo next := by
    obtain ⟨hd, he, hn, hp⟩ | ⟨hd, hn, hp⟩ := hstep
    · exact .inl ⟨hd, he, hn, fun hv => by have := hp hv; omega⟩
    · exact .inr ⟨hd, hn, fun hv => by have := hp hv; omega⟩
  have hmore : ({ s.trc with position := next } : Trc).canStep s.trc.dir = true := by
    unfold Trc.canStep
    cases hv : s.trc.valid with
    | false => rfl
    | true =>
      obtain ⟨hd, -, rfl, hp⟩ | ⟨hd, rfl, hp⟩ := hstep
      · have := hp hv
        rw [hd]
        exact decide_eq_true (by simp only [Config.maxHalf]; bv_omega)
      · have := hp hv
        rw [hd]
        exact decide_eq_true (by bv_omega)
  have row {u : State} (hu : s.brakingExpires = u) (hf : u.finish = u) : exec (.brakingStep false) s = .next u :=
    congrArg Host.Outcome.next ((congrArg State.finish hu).trans hf)
  refine ⟨fun hl => ?brakes, fun halted hl hhalted => ?_⟩
  case brakes =>
    exact row (h.brakes hg hb hmore hl) (State.finish_of_still hq rfl rfl rfl (by simp [Trc.standing, hb]))
  have hstop := h.stops hg hb hmore hl
  have hhalted : halted = ({ s.trc with position := next } : Trc).halted := hhalted
  have stands (hn : s.trc.queued = none) (hoff : s.trc.scanOn = false) : s.brakingExpires = s.setTrc halted := by
    rw [hhalted]
    exact hstop.trans (State.stopEvent_stands (by exact hn) (by exact hoff))
  have hstanding : halted.standing = true := by
    rw [hhalted]
    rfl
  refine ⟨fun hn hoff hp => ?stands, fun hn hon hp => ?transport, fun hn ho => ?home, fun g hn ho hne => ?move,
    fun hn ho hc => ?there, fun hn hoff ho hdue hr => ?stopping,
    fun hn hoff ho he hf hring hframes hregions hrows hm hopen => ?draining⟩
  case stands => exact row (stands hn hoff) (State.finish_of_quiet hq rfl rfl hp)
  case transport =>
    subst hhalted
    exact row (hstop.trans (State.stopEvent_transport (by exact hn) (by exact hon)))
      (State.finish_of_quiet hq rfl rfl hp)
  case home =>
    subst hhalted
    exact row (hstop.trans (State.stopEvent_home (by exact hn)))
      (State.finish_of_quiet hq rfl rfl (by simp [ho, OpState.plain]))
  case move =>
    subst hhalted
    exact row (hstop.trans ((State.stopEvent_move (by exact hn)).trans (State.beginMove_moving hne)))
      (State.finish_of_quiet hq rfl rfl (by simp [ho, OpState.plain]))
  case there =>
    subst hhalted
    exact row (hstop.trans ((State.stopEvent_move (by exact hn)).trans
      (State.beginMove_arrives rfl (by exact ho) (by exact hc)))) (State.finish_of_quiet hq rfl rfl rfl)
  case stopping =>
    have hsettles := State.endStopping_settles (v := s.setTrc halted) hq.settled ho rfl rfl hstanding hdue hr
    refine congrArg Host.Outcome.next ((congrArg State.finish (stands hn hoff)).trans ?_)
    exact (congrArg State.arbitrate hsettles).trans (State.arbitrate_rest (State.atRest_of_resting hq.rest rfl))
  case draining =>
    have hmet : (s.setTrc halted).drainNow = ⟨true, true, true, true, true⟩ := by
      simp [State.drainNow, hring, hframes, hregions, hrows, hstanding]
    have hsettles := State.drain_settles (v := s.setTrc halted) hq.settled hopen rfl rfl ho he hmet hframes hm
    rw [State.drainPlaced_form hf (State.nothingDue hq.settled hopen).1] at hsettles
    exact congrArg Host.Outcome.next ((congrArg State.finish (stands hn hoff)).trans
      (congrArg State.arbitrate hsettles))

/-! ## The end of the hold -/

/-- Settles O47: the hold timer stands, or runs while the carriage runs at a grade, brakes, or stands. -/
theorem holdTimerRaisesOrResumes : Obligations.HoldTimerRaisesOrResumes := by
  intro s hq hp
  have row {u : State} (hu : s.holdExpires = u) (h1 : u.reactive = s.reactive) (h2 : u.resting = s.resting)
      (h3 : u.scn = s.scn) : exec .holdTimerExpiry s = .next u :=
    congrArg Host.Outcome.next ((congrArg State.finish hu).trans
      (State.finish_of_quiet hq h1 h2 (by rw [h3]; exact hp)))
  refine ⟨fun hh => ?stopped, fun hh hm hb => ?raises, fun hh hon hb => ?notes, fun hh hon hm hb hr => ?resumes⟩
  case stopped => exact row (if_pos (by simp [hh])) rfl rfl rfl
  all_goals
    have runs : ¬(!s.trc.hold) = true := by simp [hh]
  case raises =>
    refine row ((if_neg runs).trans ?_) rfl rfl rfl
    exact if_pos (by simpa [Trc.graded, hb] using hm)
  case notes =>
    refine row ((if_neg runs).trans ?_) rfl rfl rfl
    dsimp only
    rw [if_neg (by simp [hb]), if_neg (by simp [hon]), if_pos hb]
    rfl
  case resumes =>
    refine row ((if_neg runs).trans ?_) rfl rfl rfl
    dsimp only
    rw [if_neg (by simp [Trc.graded, hm]), if_neg (by simp [hon]), if_neg (by simp [hb]), if_pos ⟨hm, hr⟩,
      State.beginBacktrack_form]
    rfl

/-! ## Ramp steps -/

/-- A ramp step moves a grade by one (R138, R139). -/
theorem Grade.toward_eq {a g c : Grade} (h : a.num < g.num ∧ c.num = a.num + 1 ∨ g.num < a.num ∧ c.num + 1 = a.num) :
    a.toward g = c := by
  have hc : gradeOf c.num = c := by cases c <;> rfl
  unfold Grade.toward
  obtain ⟨hlt, hn⟩ | ⟨hlt, hn⟩ := h
  · rw [if_pos hlt, ← hn, hc]
  · rw [if_neg (by omega), if_pos hlt, show a.num - 1 = c.num by omega, hc]

/-- Settles O48: with no ramp, within a ramp, and at its end. -/
theorem rampStepsMoveTheGrade : Obligations.RampStepsMoveTheGrade := by
  intro s g c hq hp
  have row {x : Trc} (hx : s.trc.rampStepEnds = x) : exec .rampStepEnd s = .next (s.setTrc x) := by
    subst hx
    exact congrArg Host.Outcome.next (State.finish_of_quiet hq rfl rfl hp)
  refine ⟨fun hr => row ?_, fun hr hc => row ?_⟩
  · unfold Trc.rampStepEnds
    rw [hr]
  · unfold Trc.rampStepEnds Trc.afterRamp
    rw [hr]
    dsimp only
    rw [Grade.toward_eq hc]
    by_cases h : c = g
    · rw [if_pos h, if_neg (not_not.mpr h)]
      rfl
    · rw [if_neg h, if_pos h, hr]

end Sys2Proof.Machine

/-! PROOF. Commands that are refused, and the ends of a scan by ABORT and by the holder (O13, O14, O24, O39, O40). -/

namespace Sys2Proof.Machine

open Sys2Proof

/-! ## Refusals (R149, R163, R179) -/

/-- Settles O13: one line of the table for each group of kinds. -/
theorem commandsAreTakenByTheTable : Obligations.CommandsAreTakenByTheTable := by
  intro k op
  cases k with
  | identify | status | softReset | abort | mark | speedCap | profile | formatRule | causeEnable | causeClear =>
    simp [Kind.takenIn]
  | lamp => simp [Kind.takenIn, and_assoc]
  | home | afeWrite | afeRead => simp [Kind.takenIn]
  | move | calRun | calLoad | calRead | setup | scanStart => simp [Kind.takenIn]

/-- The code of a kind is the only one that spells it (R196). -/
theorem code_of_kindOf {c : Byte} {k : Kind} (h : kindOf c = some k) : k.code = c :=
  of_decide_eq_true (List.find?_some (p := fun k : Kind => decide (k.code = c)) h)

/-- The row of a command's record is the arrival of that record (R170, R196). -/
theorem exec_rowOf {r : Record} {k : Kind} (s : State) (h : kindOf r.kind = some k) :
    exec (rowOf r) s = .next (s.commandRow k.code r.tag r.payload) := by
  unfold rowOf
  rw [h]
  cases k <;> rfl

/-- The reply to a command has its kind plus 0x80 (R171). -/
theorem replyKind_code (k : Kind) : replyKind k.code = k.code + 0x80#8 := by cases k <;> rfl

/-- A FAULT or SCAN_END waits as soon as one is due (R163). -/
theorem Scn.endWaits_of_due {c : Scn} (h : .scanEnd ∈ c.due ∨ ∃ f, ScnReport.fault f ∈ c.due) :
    c.endWaits = true := by
  refine List.any_eq_true.mpr ?_
  rcases h with h | ⟨f, h⟩
  · exact ⟨_, h, rfl⟩
  · exact ⟨_, h, rfl⟩

theorem Kind.heldByEnd_of_mem {k : Kind} (h : k ∈ [Kind.scanStart, .home, .move, .calRun]) : k.heldByEnd = true := by
  simp only [List.mem_cons, List.not_mem_nil, or_false] at h
  rcases h with rfl | rfl | rfl | rfl <;> rfl

/-- Settles O14: the state step of R179 refuses the command. -/
theorem busyCommandsChangeNothing : Obligations.BusyCommandsChangeNothing := by
  intro r k s hr hk hl hbusy
  have refused : s.refusesNow k = true := by
    unfold State.refusesNow
    rcases hbusy with h | ⟨hmem, hdue⟩
    · rw [h]
      rfl
    · rw [Kind.heldByEnd_of_mem hmem, Scn.endWaits_of_due hdue]
      exact Bool.or_true _
  refine ⟨_, exec_rowOf s hk, ?_⟩
  rw [← code_of_kindOf hk, ← replyKind_code]
  exact hr.busy hl refused

theorem State.startCondition_fails {s : State}
    (h : s.cap.valid = false ∨ s.trc.valid = false ∨ s.pins.holder = false) : s.startCondition =
      some (if s.cap.valid = false then 1 else if s.trc.valid = false then 2 else 3) := by
  unfold State.startCondition
  cases hc : s.cap.valid with
  | false => rfl
  | true =>
    cases hp : s.trc.valid with
    | false => rfl
    | true =>
      have hh : s.pins.holder = false := by simpa [hc, hp] using h
      rw [hh]
      rfl

/-- Settles O24: the command is taken, and its first failing condition answers it. -/
theorem scanStartNeedsThreeConditions : Obligations.ScanStartNeedsThreeConditions := by
  intro tag s hr ho he h
  refine ⟨_, rfl, hr.taken (k := .scanStart) (Nat.zero_le _)
    (refusesNow_eq_false (by rw [ho]; rfl) (.inr he)) rfl ?_ hr.noReset⟩
  have fails (r : Record) : (s.atDispatch r).startCondition =
      some (if s.cap.valid = false then 1 else if s.trc.valid = false then 2 else 3) :=
    State.startCondition_fails (s := s.atDispatch r) h
  show State.actScanStart _ = _
  unfold State.actScanStart
  rw [fails]
  dsimp only [State.answer, conditionReply]
  rw [apply_ite byte, apply_ite byte]
  rfl

/-! ## A scan that ABORT or the holder ends (R155, R157) -/

/-- A scan runs in PREPARING, in SCANNING, and in DRAINING until SCAN_END is due. -/
theorem State.scanRuns_iff {s : State} : s.scanRuns = true ↔
    s.scn.op = .preparing ∨ s.scn.op = .scanning ∨ (s.scn.op = .draining ∧ s.scn.endReason = none) := by
  unfold State.scanRuns
  cases s.scn.op <;> simp

/-- The Scan Controller once a scan is stopped: the markers not yet reached are aborted, and SCAN_END is due after
them (R155, R163). -/
def State.stoppedScn (s : State) (reason : EndReason) : Scn := { s.scn with
  abandoned := s.frd.table.length
  endReason := some reason
  markers := abortedMarkers s.scn.markers
  due := s.scn.due ++ abortedReports s.scn.markers ++ [.scanEnd] }

theorem State.stopScan_form (s : State) (reason : EndReason) :
    s.stopScan reason = (s.scanClear.setScn (s.stoppedScn reason)).setOp .stopping := by
  unfold State.stopScan
  simp only [Scn.due_reachAll, State.scanClear_scn]
  rfl

/-- What a stop leaves of a scan: no cause is taken away, and the pins keep their levels (R155). -/
theorem State.stopScan_ends (s : State) (reason : EndReason) :
    ScanCleared s (s.stopScan reason) ∧ (s.stopScan reason).scn = { s.stoppedScn reason with op := .stopping } ∧
      (s.stopScan reason).pins = s.pins ∧ s.ntu.pending.within (s.stopScan reason).ntu.pending := by
  rw [State.stopScan_form]
  obtain ⟨cleared, hscn, hpins, within, -⟩ :=
    State.scanCleared s (s.stoppedScn reason) .stopping ⟨rfl, rfl, rfl, rfl, rfl, rfl⟩
  exact ⟨cleared, hscn, hpins, within⟩

theorem State.abortNow_scan {s : State} (h : s.scanRuns = true) : s.abortNow = s.stopScan .aborted := by
  unfold State.abortNow
  rcases State.scanRuns_iff.mp h with ho | ho | ⟨ho, he⟩
  · rw [ho]
  · rw [ho]
  · rw [ho]
    exact if_pos he

/-- ABORT at a ready link: what it does settles, and the reply follows with the state that results (R155, R156). -/
theorem Ready.abort {s u : State} (h : Ready s) (tag : Byte) (hu : (s.atDispatch ⟨0x04#8, tag, []⟩).abortNow = u) :
    exec (.abort tag []) s =
      .next ((u.settle.pushReply ⟨0x84#8, tag, [0#8, u.settle.scn.op.code]⟩).freeSlot).arbitrate := by
  subst hu
  have hrow : s.commandRow Kind.abort.code tag [] = _ :=
    (State.commandRow_fits s (Nat.zero_le _)).trans (State.recordArrives_ready h)
  refine congrArg Host.Outcome.next (hrow.trans ?_)
  unfold State.dispatch
  rw [State.judgeRecord_taken (k := .abort) rfl (refusesNow_eq_false rfl (.inl rfl)) rfl]
  rfl

/-- The HOLDER input as it becomes inactive: the level, and the cause that follows it (R189). -/
def State.holderOut (s : State) : State := (s.setPins { s.pins with holder := false }).raise .holderOut

/-- The holder's removal changes the level, the Notice Unit and the notice slot only. -/
theorem State.holderOut_changes (s : State) : ∃ n d, s.holderOut =
    ((s.setPins { s.pins with holder := false }).setNtu n).setLif { s.lif with noticeDue := d } := by
  obtain ⟨n, d, e, -⟩ := State.raise_changes (s.setPins { s.pins with holder := false }) .holderOut
  exact ⟨n, d, e⟩

theorem State.holderLeaves_out {s : State} (h : s.pins.holder = true) :
    s.holderLeaves = if s.scanRuns then s.holderOut.stopScan .holder else s.holderOut := if_pos h

/-- Settles O39: the stop is that of `State.stopScan_ends`, from the state at the dispatch or from that of the holder's
removal. -/
theorem abortAndHolderStopTheScan : Obligations.AbortAndHolderStopTheScan := by
  intro s hrun
  have runs : s.scanRuns = true := State.scanRuns_iff.mpr hrun
  constructor
  case left =>
    intro tag hr
    obtain ⟨cleared, hscn, hpins, -⟩ := State.stopScan_ends (s.atDispatch ⟨0x04#8, tag, []⟩) .aborted
    refine ⟨_, hr.abort tag (State.abortNow_scan runs), cleared, ?_⟩
    rw [hscn]
    exact ⟨rfl, rfl, rfl, rfl, hpins⟩
  case right =>
    intro hh
    obtain ⟨n, d, hout⟩ := State.holderOut_changes s
    have raised := State.raise_pending (s.setPins { s.pins with holder := false }) .holderOut
    obtain ⟨cleared, hscn, hpins, within⟩ := State.stopScan_ends s.holderOut .holder
    have leaves : s.holderLeaves = s.holderOut.stopScan .holder := by
      rw [State.holderLeaves_out hh, if_pos runs]
    refine ⟨_, congrArg (fun u : State => Host.Outcome.next u.finish) leaves, ?_, ?_⟩
    · exact cleared.of_same (by rw [hout]; rfl) (by rw [hout]; rfl) (by rw [hout]; rfl) (by rw [hout]; rfl)
        (by rw [hout]; rfl) (by rw [hout]; exact ⟨rfl, rfl, rfl⟩) ⟨d, by rw [hout]; rfl⟩
        (by rw [hout]; exact ⟨rfl, rfl⟩)
    · rw [hscn, hpins]
      refine ⟨rfl, rfl, ?_, ?_, ?_, within _ raised⟩
      all_goals rw [hout]; rfl

/-! ## The holder outside a scan (R157, R189) -/

/-- Settles O40: the removal is a raise, which leaves nothing to settle. -/
theorem holderOutsideAScan : Obligations.HolderOutsideAScan := by
  intro s hq h1 h2 h3
  have idle : s.scanRuns = false := by
    refine Bool.eq_false_iff.mpr fun h => ?_
    rcases State.scanRuns_iff.mp h with ho | ho | ⟨ho, he⟩
    · exact h1 ho
    · exact h2 ho
    · exact h3 ho he
  refine ⟨rfl, fun hh => ?_, fun hh => ?_⟩
  · obtain ⟨n, d, hout⟩ := State.holderOut_changes s
    have leaves : s.holderLeaves = s.holderOut := by rw [State.holderLeaves_out hh, idle]; rfl
    have settled : s.holderOut.settleStep = none := by
      rw [hout]
      exact State.settled_of_still hq.settled rfl rfl rfl
    exact congrArg (fun u : State => Host.Outcome.next u.arbitrate)
      ((congrArg State.settle leaves).trans (State.settle_of_settled settled))
  · have leaves : s.holderLeaves = s := if_neg (by simp [hh])
    exact congrArg Host.Outcome.next ((congrArg State.finish leaves).trans (State.finish_quiet hq))

end Sys2Proof.Machine

/-! PROOF. MARK, and the marker that it leaves: it waits, its MARK_REACHED is placed at once, or stands behind those
that wait for room (O26). -/

namespace Sys2Proof.Machine

open Sys2Proof

/-! ## Markers that are reached (R162) -/

theorem Marker.isReached_iff {m : Marker} {held : Nat} : m.isReached held = true ↔
    m.line = none ∨ ∃ l, m.line = some l ∧ (l = 0 ∨ l ≤ held) := by
  unfold Marker.isReached
  cases m.line <;> simp

/-- A marker of a line that has not left the ring is not reached. -/
theorem Marker.isReached_eq_false {m : Marker} {held l : Nat} (hl : m.line = some l) (h0 : l ≠ 0) (h : held < l) :
    m.isReached held = false := by
  unfold Marker.isReached
  simp [hl, h0, h]

/-- The first marker not yet reached is the one tested. -/
theorem reachNext_first {held : Nat} {m : Marker} (before after : List Marker)
    (hb : ∀ x ∈ before, x.reached = true) (hm : m.reached = false) : reachNext held (before ++ m :: after) =
      if m.isReached held then some (before ++ { m with reached := true } :: after) else none := by
  induction before with
  | nil => simp [reachNext, hm]
  | cons x xs ih =>
    have hx : x.reached = true := hb x List.mem_cons_self
    rw [List.cons_append, reachNext, if_pos hx, ih fun y hy => hb y (List.mem_cons_of_mem x hy)]
    split <;> rfl

theorem State.testMarker_some {s : State} {ms : List Marker} (h : reachNext s.scn.firstHeld s.scn.markers = some ms) :
    s.testMarker = some (s.setScn { s.scn with markers := ms, due := s.scn.due ++ [.markReached] }) := by
  unfold State.testMarker
  rw [h]

theorem State.testMarker_allReached {s : State} (h : ∀ m ∈ s.scn.markers, m.reached = true) : s.testMarker = none :=
  State.testMarker_none_iff.mpr (reachNext_reached h)

/-! ## The MARK_REACHED of the head marker (R162, R199) -/

theorem lineField_none : lineField none = [0xFF#8, 0xFF#8] := by decide

/-- MARK_REACHED is placed: it enters the report queue, and its marker leaves (R162). -/
theorem State.placeScn_marker {s : State} {m : Marker} {rest : List Marker} {due : List ScnReport}
    (hd : s.scn.due = .markReached :: due) (hm : s.scn.markers = m :: rest) : s.placeScn =
      (s.setScn { s.scn with due := due, markers := rest }).pushReport m.record := by
  unfold State.placeScn
  rw [hd]
  dsimp only
  rw [hm]
  rfl

/-! ## A settled device that takes a marker -/

/-- Markers, the first line held and what is due start no output step, no drain condition and no end of STOPPING. -/
theorem State.markers_settle {s : State} (hs : s.settleStep = none) (held : Nat) (ms : List Marker)
    {due : List ScnReport} (hd : due.contains .scanEnd = s.scn.due.contains .scanEnd) {t : State}
    (ht : s.setScn { s.scn with firstHeld := held, markers := ms, due := due } = t) :
    t.coeAdvance = none ∧ t.drainCheck = none ∧ t.stoppingEnds = false := by
  obtain ⟨h1, -, h3, -, h5⟩ := State.settleStep_none_iff.mp hs
  subst ht
  refine ⟨State.coeAdvance_none (s := s) rfl rfl rfl rfl rfl h1,
    State.drainCheck_of_drainNow (s := s) rfl rfl rfl rfl h3, ?_⟩
  rw [← h5]
  exact State.stoppingEnds_of_same rfl hd rfl rfl

/-- A marker newly reached is the next reaction. -/
theorem State.settleStep_marker {s t : State} (h1 : s.coeAdvance = none) (h2 : s.testMarker = some t) :
    s.settleStep = some t := by
  unfold State.settleStep
  rw [h1, h2]

theorem contains_markReached (due : List ScnReport) :
    (due ++ [ScnReport.markReached]).contains .scanEnd = due.contains .scanEnd := by simp

/-- A marker whose line has not left the ring, or behind one not yet reached, waits (R162). -/
theorem State.settle_markerWaits {s : State} {m : Marker} (hs : s.settleStep = none)
    (h : (∃ x ∈ s.scn.markers, x.reached = false) ∨ m.isReached s.scn.firstHeld = false) :
    (s.setScn { s.scn with markers := s.scn.markers ++ [m] }).settle =
      s.setScn { s.scn with markers := s.scn.markers ++ [m] } := by
  obtain ⟨-, h2, -, h4, -⟩ := State.settleStep_none_iff.mp hs
  obtain ⟨k1, k3, k5⟩ := State.markers_settle hs s.scn.firstHeld (s.scn.markers ++ [m]) (due := s.scn.due) rfl rfl
  refine State.settle_of_settled (State.settleStep_none_iff.mpr ⟨k1, ?_, k3, h4, k5⟩)
  refine State.testMarker_none_iff.mpr ((reachNext_append (State.testMarker_none_iff.mp h2) m).trans (if_neg ?_))
  intro hall
  simp only [Bool.and_eq_true, List.all_eq_true] at hall
  obtain ⟨⟨hreached, -⟩, hline⟩ := hall
  rcases h with ⟨x, hx, hfalse⟩ | h
  · exact Bool.false_ne_true (hfalse.symm.trans (hreached x hx))
  · exact Bool.false_ne_true (h.symm.trans hline)

/-- The only marker of an open queue is reached: its MARK_REACHED enters at once and it leaves, and that is all
(R162, R173). -/
theorem State.settle_markerPlaced {s : State} {m : Marker} (hs : s.settleStep = none) (hopen : s.reportsOpen = true)
    (hnone : s.scn.markers = []) (hm : m.reached = false) (h : m.isReached s.scn.firstHeld = true) :
    (s.setScn { s.scn with markers := [m] }).settle = s.pushReport m.record := by
  have hdue : s.scn.due = [] := (State.nothingDue hs hopen).1
  generalize ht : s.setScn { s.scn with markers := [{ m with reached := true }], due := [.markReached] } = t
  have reached : (s.setScn { s.scn with markers := [m] }).testMarker = some t := by
    rw [State.testMarker_some ((reachNext_first [] [] (by simp) hm).trans (if_pos h)), ← ht]
    exact congrArg (fun d => some (s.setScn { s.scn with
      markers := [{ m with reached := true }], due := d ++ [.markReached] })) hdue
  have first := State.settleStep_marker (State.markers_settle hs s.scn.firstHeld [m] rfl rfl).1 reached
  have placed : t.placeScn = s.pushReport m.record := by
    rw [State.placeScn_marker (s := t) (m := { m with reached := true }) (rest := []) (due := []) (by rw [← ht]; rfl)
      (by rw [← ht]; rfl), ← ht]
    exact congrArg₂ (fun ms d => (s.setScn { s.scn with markers := ms, due := d }).pushReport m.record) hnone.symm
      hdue.symm
  have second : t.settleStep = some (s.pushReport m.record) := by
    obtain ⟨k1, k3, -⟩ := State.markers_settle hs s.scn.firstHeld [{ m with reached := true }]
      (due := [.markReached]) (by rw [hdue]; rfl) rfl
    rw [← placed, ← ht]
    refine State.settleStep_scn k1 (State.testMarker_allReached (by simp)) k3 (fun p hp => ?_) (List.cons_ne_nil _ _)
      hopen
    rw [← State.noReport hs hopen p]
    cases p with
    | scn => exact absurd rfl hp
    | cap | frd | coe => rfl
  exact State.settle_two first second (State.settled_of_still hs rfl rfl rfl)

/-- A marker that is reached behind others which wait for room: its MARK_REACHED is due after theirs (R163, R173;
log 35). -/
theorem State.settle_markerDue {s : State} {m : Marker} (hs : s.settleStep = none)
    (hall : ∀ x ∈ s.scn.markers, x.reached = true) (hw : .scn ∈ s.lif.waitList) (hm : m.reached = false)
    (h : m.isReached s.scn.firstHeld = true) :
    (s.setScn { s.scn with markers := s.scn.markers ++ [m] }).settle = s.setScn { s.scn with
      markers := s.scn.markers ++ [{ m with reached := true }]
      due := s.scn.due ++ [.markReached] } := by
  obtain ⟨-, -, -, h4, -⟩ := State.settleStep_none_iff.mp hs
  have reached := State.testMarker_some (s := s.setScn { s.scn with markers := s.scn.markers ++ [m] })
    ((reachNext_first s.scn.markers [] hall hm).trans (if_pos h))
  have first := State.settleStep_marker
    (State.markers_settle hs s.scn.firstHeld (s.scn.markers ++ [m]) rfl rfl).1 reached
  refine State.settle_one first (State.settleStep_none_iff.mpr ?_)
  obtain ⟨k1, k3, k5⟩ := State.markers_settle hs s.scn.firstHeld (s.scn.markers ++ [{ m with reached := true }])
    (contains_markReached s.scn.due) rfl
  refine ⟨k1, State.testMarker_allReached fun x hx => ?_, k3, State.offering_none_iff.mpr fun p hp => ?_, k5⟩
  · rcases List.mem_append.mp hx with hx | hx
    · exact hall x hx
    · rw [List.mem_singleton.mp hx]
  · cases p with
    | scn => exact hw
    | cap | frd | coe => exact State.offering_none_iff.mp h4 _ hp

/-! ## MARK (R161) -/

/-- The marker's value is the payload's two bytes (R195, R197). -/
theorem half_of_bytes (a b : Byte) : half (u16 [a, b] 0) = b ++ a := by
  show BitVec.ofNat 16 (a.toNat + 256 * b.toNat) = b ++ a
  refine BitVec.eq_of_toNat_eq ?_
  rw [BitVec.toNat_append, ← Nat.shiftLeft_add_eq_or_of_lt a.isLt]
  simp
  omega

theorem le16_append (a b : Byte) : le16 (b ++ a).toNat = [a, b] := by
  rw [BitVec.toNat_append, ← Nat.shiftLeft_add_eq_or_of_lt a.isLt, Nat.shiftLeft_eq, ← le16_of_bytes]
  congr 1
  omega

/-- The line that MARK records, by operation state. -/
theorem State.markLine_eq {s : State} {line : Option Nat}
    (h : s.scn.op = .preparing ∧ line = some 0 ∨ s.scn.op = .scanning ∧ line = some s.cap.nextLine ∨
      s.scn.op = .draining ∧ line = some s.scn.setup.n ∨
      s.scn.op ∈ [OpState.idle, .positioning, .calibrating, .stopping, .faulted] ∧ line = none) :
    s.markLine = line := by
  unfold State.markLine
  rcases h with ⟨ho, rfl⟩ | ⟨ho, rfl⟩ | ⟨ho, rfl⟩ | ⟨ho, rfl⟩
  · rw [ho]
  · rw [ho]
  · rw [ho]
    rfl
  · simp only [List.mem_cons, List.not_mem_nil, or_false] at ho
    rcases ho with ho | ho | ho | ho | ho <;> rw [ho]

/-- MARK at a ready link in any operation state (R161, R179). -/
theorem Ready.mark {s u : State} (h : Ready s) (tag a b : Byte) {reply : List Byte}
    (ha : (s.atDispatch ⟨0x0C#8, tag, [a, b]⟩).actMark [a, b] =
      ⟨u.atDispatch ⟨0x0C#8, tag, [a, b]⟩, some reply⟩)
    (hp : u.lif.resetPending = s.lif.resetPending) :
    ∃ t, exec (.mark tag [a, b]) s = .next t ∧ Replied u t ⟨0x8C#8, tag, reply⟩ :=
  ⟨_, rfl, h.taken (k := .mark) (by simp [Config.receiveLimit]) (refusesNow_eq_false rfl (.inl rfl)) rfl ha
    (hp.trans h.noReset)⟩

/-- MARK with room in the marker queue: the marker takes its line, the device settles, and the reply names the line
(R161, R199). -/
theorem Ready.marked {s u : State} (h : Ready s) (tag a b : Byte) (hroom : s.scn.markers.length < 4)
    (hu : ((s.atDispatch ⟨0x0C#8, tag, [a, b]⟩).setScn { s.scn with
      markers := s.scn.markers ++ [⟨b ++ a, s.markLine, false, false⟩] }).settle =
        u.atDispatch ⟨0x0C#8, tag, [a, b]⟩)
    (hp : u.lif.resetPending = s.lif.resetPending) :
    ∃ t, exec (.mark tag [a, b]) s = .next t ∧ Replied u t ⟨0x8C#8, tag, 0#8 :: lineField s.markLine⟩ := by
  refine h.mark tag a b ?_ hp
  rw [← hu, ← half_of_bytes]
  exact if_neg (Nat.not_le.mpr hroom)

section outcomes

variable {s : State}

theorem State.settled_atDispatch (hs : s.settleStep = none) (r : Record) : (s.atDispatch r).settleStep = none :=
  State.settled_of_still hs rfl rfl rfl

variable (hr : Ready s) (hs : s.settleStep = none) (hroom : s.scn.markers.length < 4) (tag a b : Byte)

include hr hs hroom

/-- MARK of a line that has not left the ring, or behind a marker not yet reached (R162). -/
theorem Ready.mark_waits (h : (∃ m ∈ s.scn.markers, m.reached = false) ∨
    ∃ l, s.markLine = some l ∧ 0 < l ∧ s.scn.firstHeld < l) :
    ∃ t, exec (.mark tag [a, b]) s = .next t ∧ Replied (s.setScn { s.scn with
      markers := s.scn.markers ++ [⟨b ++ a, s.markLine, false, false⟩] }) t
      ⟨0x8C#8, tag, 0#8 :: lineField s.markLine⟩ := by
  refine hr.marked tag a b hroom (State.settle_markerWaits (State.settled_atDispatch hs _) ?_) rfl
  exact h.imp_right fun ⟨l, hl, h0, hlt⟩ => Marker.isReached_eq_false hl (Nat.ne_of_gt h0) hlt

/-- MARK of a line that has left the ring, with nothing before it (R162, R173). -/
theorem Ready.mark_placed (h : s.markLine = none ∨ ∃ l, s.markLine = some l ∧ (l = 0 ∨ l ≤ s.scn.firstHeld))
    (hnone : s.scn.markers = []) (hopen : s.reportsOpen = true) :
    ∃ t, exec (.mark tag [a, b]) s = .next t ∧ Replied (s.setLif { s.lif with
      reports := s.lif.reports ++ [⟨0x43#8, 0#8, [a, b] ++ lineField s.markLine ++ [0#8]⟩] }) t
      ⟨0x8C#8, tag, 0#8 :: lineField s.markLine⟩ := by
  refine hr.marked tag a b hroom ?_ rfl
  rw [hnone]
  refine (State.settle_markerPlaced (State.settled_atDispatch hs _) hopen hnone rfl
    (Marker.isReached_iff.mpr h)).trans ?_
  rw [Marker.record, le16_append]
  rfl

/-- MARK of a line that has left the ring, behind markers that wait for room (R163, R173; log 35). -/
theorem Ready.mark_due (h : s.markLine = none ∨ ∃ l, s.markLine = some l ∧ (l = 0 ∨ l ≤ s.scn.firstHeld))
    (hall : ∀ m ∈ s.scn.markers, m.reached = true) (hw : .scn ∈ s.lif.waitList) :
    ∃ t, exec (.mark tag [a, b]) s = .next t ∧ Replied (s.setScn { s.scn with
      markers := s.scn.markers ++ [⟨b ++ a, s.markLine, true, false⟩]
      due := s.scn.due ++ [.markReached] }) t ⟨0x8C#8, tag, 0#8 :: lineField s.markLine⟩ :=
  hr.marked tag a b hroom (State.settle_markerDue (State.settled_atDispatch hs _) hall hw rfl
    (Marker.isReached_iff.mpr h)) rfl

end outcomes

/-- Settles O26: the test of the markers, the placing of MARK_REACHED, a release that reaches the only marker, and
MARK itself. -/
theorem markRecordsItsLine : Obligations.MarkRecordsItsLine := by
  refine ⟨fun s before after m hms hb hm => ⟨fun h => ?reached, fun l hl h0 h => ?notReached⟩,
    fun s h => ?allReached, fun s m rest due hd hms => ?placed,
    fun s m l held hs _ hopen hms hm hl h => ?released,
    fun tag a b s hr => ⟨fun h => ?full, fun line field hroom hs hline hfield => ?taken⟩⟩
  case reached =>
    exact State.testMarker_some (by rw [hms, reachNext_first _ _ hb hm, if_pos (Marker.isReached_iff.mpr h)])
  case notReached =>
    rw [State.testMarker_none_iff, hms, reachNext_first _ _ hb hm, Marker.isReached_eq_false hl h0 h]
    rfl
  case allReached => exact State.testMarker_allReached h
  case placed =>
    refine (State.placeScn_marker hd hms).trans ?_
    unfold Marker.record
    cases m.line with
    | some l => rfl
    | none => rw [lineField_none]; rfl
  case released =>
    have settled : (s.setScn { s.scn with firstHeld := held, markers := [] }).settleStep = none := by
      obtain ⟨-, -, -, h4, -⟩ := State.settleStep_none_iff.mp hs
      obtain ⟨k1, k3, k5⟩ := State.markers_settle hs held [] rfl rfl
      exact State.settleStep_none_iff.mpr ⟨k1, rfl, k3, h4, k5⟩
    have placed := State.settle_markerPlaced settled hopen rfl hm (Marker.isReached_iff.mpr (.inr ⟨l, hl, .inr h⟩))
    rw [Marker.record, hl, ← hms] at placed
    exact placed
  case full => exact hr.mark tag a b (u := s) (if_pos h) rfl
  case taken =>
    have hfield : field = lineField s.markLine := by
      rw [hfield, State.markLine_eq hline]
      cases line with
      | some l => rfl
      | none => exact lineField_none.symm
    rw [hfield, ← State.markLine_eq hline]
    exact ⟨hr.mark_waits hs hroom tag a b,
      fun h => ⟨hr.mark_placed hs hroom tag a b h, hr.mark_due hs hroom tag a b h⟩⟩

end Sys2Proof.Machine

/-! PROOF. The receive framer: one byte in each of its states, the receive errors, and a record sent byte by byte
(O3, O4, O5). -/

namespace Sys2Proof.Machine

open Sys2Proof

/-! ## One byte at the framer (R167) -/

section framer

variable {s : State} {k t lo : Byte} {c : Half} {bs : List Byte} (b : Byte)

theorem State.takeByte_hunt (h : s.lif.framer = .hunt) :
    s.takeByte b = if b = syncFirst then s.setFramer .sync else s := by
  unfold State.takeByte
  rw [h]

theorem State.takeByte_sync (h : s.lif.framer = .sync) : s.takeByte b =
    if b = syncSecond then s.setFramer (.header [] crcStart) else
      if b = syncFirst then s else s.setFramer .hunt := by
  unfold State.takeByte
  rw [h]

theorem State.takeByte_header (h : s.lif.framer = .header bs c) (hl : bs.length < 3) :
    s.takeByte b = s.setFramer (.header (bs ++ [b]) (crcByte c b)) := by
  unfold State.takeByte
  rw [h]
  match bs, hl with
  | [], _ | [_], _ | [_, _], _ => rfl

theorem State.takeByte_lastHeader (h : s.lif.framer = .header [k, t, lo] c) :
    s.takeByte b = s.headerDone k t lo b (crcByte c b) := by
  unfold State.takeByte
  rw [h]

theorem State.takeByte_payload {n : Nat} (h : s.lif.framer = .payload k t n bs c) :
    s.takeByte b = s.setFramer (
      if n ≤ bs.length + 1 then .check ⟨k, t, bs ++ [b]⟩ (crcByte c b) none
      else .payload k t n (bs ++ [b]) (crcByte c b)) := by
  unfold State.takeByte
  rw [h]
  simp only [List.length_append, List.length_singleton]
  split <;> rfl

theorem State.takeByte_firstCheck {r : Record} (h : s.lif.framer = .check r c none) :
    s.takeByte b = s.setFramer (.check r c (some b)) := by
  unfold State.takeByte
  rw [h]

theorem State.takeByte_wrongCheck {r : Record} {hi : Byte} (h : s.lif.framer = .check r c (some hi))
    (hne : hi.toNat * 256 + b.toNat ≠ c.toNat) : s.takeByte b = s.linkError .crc := by
  unfold State.takeByte
  rw [h]
  exact if_neg hne

/-- A length of at most 1,024 bytes takes the framer on: to CHECK where it is 0, else to PAYLOAD (R167). -/
theorem State.headerDone_fits (h : lo.toNat + 256 * b.toNat ≤ 1024) : s.headerDone k t lo b c =
    s.setFramer (if lo.toNat + 256 * b.toNat = 0 then .check ⟨k, t, []⟩ c none
      else .payload k t (lo.toNat + 256 * b.toNat) [] c) := by
  rw [apply_ite s.setFramer]
  exact if_neg (Nat.not_lt.mpr h)

/-- A greater length is the length error (R168). -/
theorem State.headerDone_long (h : 1024 < lo.toNat + 256 * b.toNat) :
    s.headerDone k t lo b c = s.linkError .length := if_pos h

end framer

/-- Settles O4: one case for each state of the framer. -/
theorem framerFollowsTable : Obligations.FramerFollowsTable := by
  intro s b
  refine ⟨fun h => ?hunt, fun h => ?sync, fun bs c h hl => ?header, fun k t lo c h hl => ?length,
    fun k t n bs c h => ?payload, fun r c h => ?check⟩
  all_goals refine congrArg Host.Outcome.next (?_ : s.takeByte b = _)
  case hunt => exact State.takeByte_hunt b h
  case sync => exact State.takeByte_sync b h
  case header => exact State.takeByte_header b h hl
  case length => exact (State.takeByte_lastHeader b h).trans (State.headerDone_fits b hl)
  case payload => exact State.takeByte_payload b h
  case check => exact State.takeByte_firstCheck b h

/-! ## Receive errors (R168) -/

/-- The inter-byte timer runs in every state of the framer but HUNT and SYNC (R167). -/
theorem Framer.timed_iff {f : Framer} : f.timed = true ↔ f ≠ .hunt ∧ f ≠ .sync := by
  cases f <;> simp [Framer.timed]

/-- Settles O5: the length error, the check error, and the timeout while a record is being received. -/
theorem receiveErrorsDiscard : Obligations.ReceiveErrorsDiscard := by
  intro s
  refine ⟨fun k t lo hi c h hl => ?length, fun r c hi lo h hne => ?check, fun h1 h2 => ?timeout, fun h => ?idle⟩
  case length =>
    exact congrArg Host.Outcome.next ((State.takeByte_lastHeader hi h).trans (State.headerDone_long hi hl))
  case check => exact congrArg Host.Outcome.next (State.takeByte_wrongCheck lo h hne)
  case timeout => exact congrArg Host.Outcome.next (if_pos (Framer.timed_iff.mpr ⟨h1, h2⟩))
  case idle =>
    refine congrArg Host.Outcome.next (if_neg fun ht => ?_)
    obtain ⟨h1, h2⟩ := Framer.timed_iff.mp ht
    exact h.elim h1 h2

/-! ## A record sent byte by byte (R166, R167) -/

/-- Header and payload take a framer that has the sync pair to CHECK, with the record and its check. -/
theorem State.takeBytes_body (s : State) (r : Record) (hl : r.payload.length ≤ 1024) :
    (s.setFramer (.header [] crcStart)).takeBytes (recordBody r) =
      s.setFramer (.check r (crcOf (recordBody r)) none) := by
  obtain ⟨k, t, p⟩ := r
  have hlen : (byte p.length).toNat + 256 * (byte (p.length / 256)).toNat = p.length :=
    length_bytes (Nat.lt_of_le_of_lt hl (by decide))
  have hbody : recordBody ⟨k, t, p⟩ = [k, t, byte p.length, byte (p.length / 256)] ++ p := rfl
  rw [hbody, State.takeBytes_append, State.takeBytes_header, State.headerDone_fits _ (by rw [hlen]; exact hl), hlen]
  by_cases hp : p = []
  · subst hp
    rfl
  · rw [if_neg fun h => hp (List.length_eq_zero_iff.mp h), State.takeBytes_payload s _ _ _ _ hp [] _ (Nat.zero_add _),
      crcOf, List.foldl_append]
    rfl

/-- A record's bytes at a hunting framer are the arrival of that record. -/
theorem State.takeBytes_record {s : State} {r : Record} (h : s.lif.framer = .hunt)
    (hl : r.payload.length ≤ 1024) : s.takeBytes (recordBytes r) = s.recordArrives r := by
  unfold recordBytes
  rw [State.takeBytes_append, State.takeBytes_append, State.takeBytes_sync s h, State.takeBytes_body s r hl,
    State.takeBytes_check, if_pos (check_bytes _)]

/-- The row of any record, of a command or not, is the arrival of that record (R170, R196). -/
theorem exec_rowOf_any (r : Record) (s : State) :
    exec (rowOf r) s = .next (s.commandRow r.kind r.tag r.payload) := by
  cases hk : kindOf r.kind with
  | none =>
    unfold rowOf
    rw [hk]
    rfl
  | some k => rw [exec_rowOf s hk, code_of_kindOf hk]

/-- Settles O3: the bytes are the arrival of the record, and so is its row. -/
theorem recordOnTheWireIsItsRow : Obligations.RecordOnTheWireIsItsRow := by
  intro r s h hl
  rw [exec_rowOf_any, State.commandRow_fits s hl, ← State.takeBytes_record h hl]
  rfl

end Sys2Proof.Machine

/-! PROOF. The receive slot: a record that meets an occupied slot, one that waits for room in the reply queue, and two
that are answered at once, SOFT_RESET and a record of an unknown kind (O6, O7, O12, O16). -/

namespace Sys2Proof.Machine

open Sys2Proof

/-! ## The arrival of a record -/

/-- A command row whose record fits the receiver is the arrival of that record (R170). -/
theorem exec_of_recordOf {i : Instr} {r : Record} (s : State) (h : recordOf i = some r)
    (hl : r.payload.length ≤ 1024) : exec i s = .next (s.recordArrives r) := by
  have row : exec i s = .next (s.commandRow r.kind r.tag r.payload) := by
    cases i with
    | identify | status | softReset | abort | setup | profile | formatRule | scanStart | mark | speedCap | lamp | home
    | move | afeWrite | afeRead | calRun | calLoad | calRead | causeEnable | causeClear | unknownKind =>
      cases h
      rfl
    | powerOn | resetPin | recordReceived | interByteTimeout | softResetTakesEffect | recordSent | linkHoldActive
    | linkHoldInactive | holderRemoved | holderInserted | homeEdge | homeReleased | homeStepLimit | endEdge | motorStep
    | brakingStep | holdTimerExpiry | rampStepEnd | watchdogExpiry | lineComplete | repairComplete | warmupExpiry
    | darkSettleEnd | calLineTimer | calLineComplete | afeTransferComplete => cases h
  rw [row, State.commandRow_fits s hl]

section arrival

variable {s : State} {r : Record}

/-- A cause that is raised frees no arbiter and stops none. -/
theorem State.arbiterWaits_raise (s : State) (c : Cause) : (s.raise c).arbiterWaits = s.arbiterWaits := by
  rw [State.raise_form]
  rfl

/-- A good record that meets an occupied slot is an overrun (R169). -/
theorem State.receiveGood_overrun (h : s.lif.slot ≠ none) :
    s.receiveGood r = (s.setLif { s.lif with framer := .hunt }).raise .rxOverrun :=
  if_pos (Option.isSome_iff_ne_none.mpr h)

/-- A good record that meets an empty slot and a full reply queue waits in the slot (R169, R170). -/
theorem State.receiveGood_waits (h : s.lif.slot = none) (hfull : s.lif.replies.length = 4) :
    s.receiveGood r = s.setLif { s.lif with framer := .hunt, slot := some r } :=
  (if_neg (by simp [h])).trans (State.dispatchWaiting_holds (.inr (Nat.le_of_eq hfull.symm)))

end arrival

/-- Settles O6: the overrun is a raise, after which the arbiter still waits. -/
theorem overrunKeepsTheSlot : Obligations.OverrunKeepsTheSlot := by
  intro c r s hc hl hslot hw
  rw [exec_of_recordOf s hc hl, State.recordArrives, State.receiveGood_overrun hslot, State.arbitrate_waits]
  exact (State.arbiterWaits_raise _ _).trans hw

/-! ## A record that waits in the slot (R170) -/

section waiting

variable {s u : State} {x r : Record} {p : List Byte}

theorem State.sendsResetReply_eq_false (h : s.lif.resetPending = false) : s.sendsResetReply = false := by
  unfold State.sendsResetReply
  rw [h]
  rfl

/-- The end of a record that is not the reply of a pending SOFT_RESET: the arbiter chooses (R175). -/
theorem State.recordEnds_next (h : s.lif.tx = some x) (hr : s.sendsResetReply = false) :
    s.recordEnds = (s.setLif { s.lif with tx := none }).arbitrate := by
  unfold State.recordEnds
  rw [h]
  exact if_neg (Bool.eq_false_iff.mp hr)

/-- A record answered at its dispatch: its reply joins the tail of the queue, and the slot is free (R169 to R171). -/
theorem State.dispatch_answered (hj : s.judgeRecord r = ⟨u, some p⟩) (hp : u.lif.resetPending = false) :
    s.dispatch r = u.setLif { u.lif with
      slot := none
      replies := u.lif.replies ++ [⟨replyKind r.kind, r.tag, p⟩] } := by
  unfold State.dispatch
  rw [hj]
  exact if_neg (Bool.eq_false_iff.mp hp)

/-- The record in the slot is dispatched once the reply queue has room. -/
theorem State.dispatchWaiting_answered (hs : s.lif.slot = some r) (ha : s.cap.afe = none)
    (hn : s.lif.resetPending = false) (hroom : s.lif.replies.length < 4) (hj : s.judgeRecord r = ⟨u, some p⟩)
    (hp : u.lif.resetPending = false) : s.dispatchWaiting = u.setLif { u.lif with
      slot := none
      replies := u.lif.replies ++ [⟨replyKind r.kind, r.tag, p⟩] } := by
  have waits : s.slotWaits = true := by
    unfold State.slotWaits
    rw [hs, ha, hn]
    rfl
  exact (State.dispatchWaiting_takes hs waits hroom).trans (State.dispatch_answered hj hp)

variable {rest : List Record} (htx : s.lif.tx = none) (hh : s.pins.linkHold = false) (hre : s.lif.replies = x :: rest)

include htx hh hre

/-- A reply is sent, and the room it leaves is no use to the slot (R170, R175). -/
theorem State.arbitrate_sends (h : s.slotWaits = false ∨ 4 ≤ rest.length) :
    s.arbitrate = s.setLif { s.lif with replies := rest, tx := some x } :=
  (State.arbitrate_head htx hh hre).trans (State.dispatchWaiting_holds h)

/-- A reply is sent, and the room it leaves lets the command in the slot act (R170, R175). -/
theorem State.arbitrate_answers (hs : s.lif.slot = some r) (ha : s.cap.afe = none)
    (hn : s.lif.resetPending = false) (hroom : rest.length < 4)
    (hj : (s.setLif { s.lif with replies := rest, tx := some x }).judgeRecord r = ⟨u, some p⟩)
    (hp : u.lif.resetPending = false) : s.arbitrate = u.setLif { u.lif with
      slot := none
      replies := u.lif.replies ++ [⟨replyKind r.kind, r.tag, p⟩] } :=
  (State.arbitrate_head htx hh hre).trans (State.dispatchWaiting_answered hs ha hn hroom hj hp)

end waiting

/-- Settles O7: the record waits in the slot, and the room of a reply that is sent lets it act. -/
theorem fullReplyQueueHoldsTheCommand : Obligations.FullReplyQueueHoldsTheCommand := by
  constructor
  case left =>
    intro c r s hc hl hslot hfull hw
    rw [exec_of_recordOf s hc hl, State.recordArrives, State.receiveGood_waits hslot hfull]
    exact congrArg Host.Outcome.next (State.arbitrate_waits hw)
  case right =>
    intro s x r0 r rest p u htx hh hn ha hre hroom hslot hj hp
    have replies : u.lif.replies = rest := by
      have := (State.judgeRecord_lif (s.setLif { s.lif with replies := rest, tx := some r0 }) r).1
      rw [hj] at this
      exact this
    refine congrArg Host.Outcome.next ((State.recordEnds_next htx (State.sendsResetReply_eq_false hn)).trans ?_)
    rw [← replies]
    exact State.arbitrate_answers (s := s.setLif { s.lif with tx := none }) rfl hh hre hslot ha hn hroom hj hp

/-! ## Records that a ready link answers at once -/

/-- Settles O12: the reply OK is queued, and the pending reset holds the slot against every other record. -/
theorem softResetWaitsForItsReply : Obligations.SoftResetWaitsForItsReply := by
  intro tag s h
  generalize hr : (⟨0x03#8, tag, []⟩ : Record) = r
  have judged : (s.atDispatch r).judgeRecord r =
      ⟨(s.atDispatch r).setLif { (s.atDispatch r).lif with resetPending := true }, some [0#8]⟩ := by
    subst hr
    exact State.judgeRecord_taken (k := .softReset) rfl (refusesNow_eq_false rfl (.inl rfl)) rfl
  have dispatched : (s.atDispatch r).dispatch r = s.setLif { s.lif with
      framer := .hunt
      slot := some r
      resetPending := true
      replies := s.lif.replies ++ [⟨0x83#8, tag, [0#8]⟩] } := by
    unfold State.dispatch
    rw [judged, ← hr]
    exact if_pos rfl
  obtain ⟨l, x, sent, out⟩ := State.arbitrate_reply (s := (s.atDispatch r).dispatch r)
    (by rw [dispatched]; exact Bool.and_false _) (by rw [dispatched]; simp)
  have row : s.commandRow Kind.softReset.code tag [] = ((s.atDispatch r).dispatch r).arbitrate := by
    subst hr
    exact (State.commandRow_fits s (Nat.zero_le _)).trans (State.recordArrives_ready h)
  rw [dispatched] at sent out row
  refine ⟨_, congrArg Host.Outcome.next (row.trans sent), rfl, ?_⟩
  refine out.trans ?_
  simp [State.outgoing]

/-- Settles O16: the record is judged to be of an unknown kind, which changes nothing. -/
theorem unknownKindsActOnNothing : Obligations.UnknownKindsActOnNothing := by
  intro kind tag p s h hk hl
  refine ⟨_, rfl, ?_⟩
  rw [State.commandRow_fits s hl]
  exact State.recordArrives_replied h (State.judgeRecord_unknown hk) h.noReset

end Sys2Proof.Machine

/-! PROOF. The transmit arbiter: the settling of a row, the wait list, and what the arbiter takes at the end of a record
or when LINK_HOLD goes (O8, O9). -/

namespace Sys2Proof.Machine

open Sys2Proof

/-! ## The settling of a row (R115, R154, R162, R173; log 9) -/

section settling

variable {s t : State}

theorem State.settleStep_output (h : s.coeAdvance = some t) : s.settleStep = some t := by
  unfold State.settleStep
  rw [h]

theorem State.settleStep_drain (h1 : s.coeAdvance = none) (h2 : s.testMarker = none) (h3 : s.drainCheck = some t) :
    s.settleStep = some t := by
  unfold State.settleStep
  rw [h1, h2, h3]

theorem State.settleStep_offer {p : Producer} (h1 : s.coeAdvance = none) (h2 : s.testMarker = none)
    (h3 : s.drainCheck = none) (h4 : s.offering = some p) : s.settleStep = some (s.offer p) := by
  unfold State.settleStep
  rw [h1, h2, h3, h4]

theorem State.settleN_of_settled (h : s.settleStep = none) (n : Nat) : State.settleN n s = s := by
  cases n with
  | zero => rfl
  | succ n =>
    unfold State.settleN
    rw [h]

/-- Reactions that follow one another until none is left are what a row settles, if it may make so many. -/
theorem State.settleN_of_chain {k n : Nat} {at_ : Nat → State} (hk : k ≤ n)
    (hstep : ∀ i, i < k → (at_ i).settleStep = some (at_ (i + 1))) (hend : (at_ k).settleStep = none) :
    State.settleN n (at_ 0) = at_ k := by
  induction k generalizing n at_ with
  | zero => exact State.settleN_of_settled hend n
  | succ k ih =>
    obtain ⟨m, rfl⟩ := Nat.exists_eq_succ_of_ne_zero (Nat.ne_of_gt (Nat.lt_of_lt_of_le k.succ_pos hk))
    have first : State.settleN (m + 1) (at_ 0) = State.settleN m (at_ 1) := by
      rw [State.settleN, hstep 0 k.succ_pos]
    rw [first]
    exact ih (at_ := fun i => at_ (i + 1)) (Nat.le_of_succ_le_succ hk) (fun i hi => hstep (i + 1) (Nat.succ_lt_succ hi))
      hend

/-- The first producer in the order of offers with a report due, and not on the wait list, is the one that offers. -/
theorem State.offering_first {p : Producer} {before after : List Producer} (horder : producers = before ++ p :: after)
    (hb : ∀ q ∈ before, s.hasReport q = false ∨ q ∈ s.lif.waitList) (hp : s.hasReport p = true)
    (hw : p ∉ s.lif.waitList) : s.offering = some p := by
  unfold State.offering
  rw [horder, List.find?_append, List.find?_eq_none.mpr, Option.none_or]
  · exact List.find?_cons_of_pos (by simp [hp, hw])
  · intro q hq
    rcases hb q hq with h | h <;> simp [h]

theorem State.joinWaitList_new {p : Producer} (h : p ∉ s.lif.waitList) :
    s.joinWaitList p = s.setLif { s.lif with waitList := s.lif.waitList ++ [p] } :=
  if_neg (by simpa using h)

end settling

/-! ## The room that a report leaves (R173) -/

section room

variable {s : State}

theorem State.waitList_of_outer {t : State} (h : t.outer = s.outer) : t.lif.waitList = s.lif.waitList :=
  congrArg (fun o => o.lif.waitList) h

theorem State.waitList_setOp (s : State) (op : OpState) : (s.setOp op).lif.waitList = s.lif.waitList :=
  State.waitList_of_outer (State.outer_setOp s op)

theorem State.waitList_placeFrameDone (s : State) (n : Nat) : (s.placeFrameDone n).lif.waitList = s.lif.waitList := by
  unfold State.placeFrameDone
  split
  · rename_i r _
    exact State.waitList_of_outer (s := s.pushReport r) (by simp)
  · rfl

/-- A producer that places a report leaves the wait list as it is. -/
theorem State.waitList_place (s : State) (p : Producer) : (s.place p).lif.waitList = s.lif.waitList := by
  cases p with
  | cap =>
    show s.placeCal.lif.waitList = _
    unfold State.placeCal
    split
    · rfl
    · dsimp only
      split
      · split
        · exact State.waitList_setOp _ _
        · rfl
      · rfl
  | frd =>
    show s.placeFrd.lif.waitList = _
    unfold State.placeFrd
    split
    · rfl
    · rfl
    · exact State.waitList_placeFrameDone _ _
  | coe =>
    show s.placeCoe.lif.waitList = _
    unfold State.placeCoe
    split
    · exact State.waitList_placeFrameDone _ _
    · rfl
  | scn =>
    show s.placeScn.lif.waitList = _
    unfold State.placeScn
    split
    · rfl
    · split <;> rfl
    · rfl
    · dsimp only
      split
      · exact State.waitList_setOp _ _
      · rfl

/-- The head of the wait list gets the room: it places its oldest report, and rejoins at the tail if it holds more. -/
theorem State.giveRoom_head {u : State} {p : Producer} {waiting : List Producer} (hw : s.lif.waitList = p :: waiting)
    (hp : p ∉ waiting) (hu : (s.setLif { s.lif with waitList := waiting }).place p = u) : s.giveRoom =
      if u.hasReport p = true then u.setLif { u.lif with waitList := waiting ++ [p] } else u := by
  have left : u.lif.waitList = waiting := by
    rw [← hu]
    exact State.waitList_place _ _
  unfold State.giveRoom
  rw [hw]
  dsimp only
  rw [hu, State.joinWaitList_new (by rw [left]; exact hp), left]

theorem State.giveRoom_none (h : s.lif.waitList = []) : s.giveRoom = s := by
  unfold State.giveRoom
  rw [h]

end room

/-! ## What the arbiter takes when it is free (R174 to R177) -/

section free

variable {s u : State} {r : Record}

theorem State.chooseData_report {rest : List Record} (h : s.lif.reports = r :: rest) :
    s.chooseData = (s.setLif { s.lif with tx := some r, reports := rest }).giveRoom.settle := by
  unfold State.chooseData
  rw [h]
  rfl

/-- A report is taken while no producer waits: nothing else becomes of it in a settled device (R173). -/
theorem State.chooseData_alone {rest : List Record} (h : s.lif.reports = r :: rest) (hw : s.lif.waitList = [])
    (hs : s.settleStep = none) : s.chooseData = s.setLif { s.lif with tx := some r, reports := rest } := by
  rw [State.chooseData_report h, State.giveRoom_none (by exact hw)]
  exact State.settle_of_settled (State.settled_of_still hs rfl rfl rfl)

/-- A report is taken while producers wait: its room goes to the first of them (R173). -/
theorem State.chooseData_room {rest : List Record} {p : Producer} {waiting : List Producer}
    (h : s.lif.reports = r :: rest) (hw : s.lif.waitList = p :: waiting) (hp : p ∉ waiting)
    (hu : (s.setLif { s.lif with tx := some r, reports := rest, waitList := waiting }).place p = u) :
    s.chooseData =
      (if u.hasReport p = true then u.setLif { u.lif with waitList := waiting ++ [p] } else u).settle :=
  (State.chooseData_report h).trans (congrArg State.settle (State.giveRoom_head hw hp hu))

theorem State.chooseData_image (h : s.lif.reports = []) (hi : s.takeImage = some (r, u)) :
    s.chooseData = (u.setLif { u.lif with tx := some r }).settle := by
  unfold State.chooseData
  rw [h, hi]
  rfl

theorem State.chooseData_preview (h : s.lif.reports = []) (hi : s.takeImage = none)
    (hp : s.takePreview = some (r, u)) : s.chooseData = (u.setLif { u.lif with tx := some r }).settle := by
  unfold State.chooseData
  rw [h, hi, hp]
  rfl

theorem State.chooseData_none (h : s.lif.reports = []) (hi : s.takeImage = none) (hp : s.takePreview = none) :
    s.chooseData = s := by
  unfold State.chooseData
  rw [h, hi, hp]

/-- A NOTICE is due and has a cause to carry: it is taken, with the set that stands now (R174). -/
theorem State.chooseUnsolicited_notice (hd : s.lif.noticeDue = true) (hn : s.ntu.noticeSet ≠ 0) :
    s.chooseUnsolicited = s.setLif { s.lif with noticeDue := false, tx := some s.noticeRecord } := by
  unfold State.chooseUnsolicited
  rw [if_pos hd, if_pos hn]
  rfl

/-- No NOTICE, or an empty one: the slot is not due afterwards, and the arbiter goes on (R174, R175). -/
theorem State.chooseUnsolicited_data (h : s.lif.noticeDue = false ∨ s.ntu.noticeSet = 0) :
    s.chooseUnsolicited = s.noticeDone.chooseData := by
  unfold State.chooseUnsolicited
  by_cases hd : s.lif.noticeDue = true
  · rw [if_pos hd, if_neg (not_not.mpr (h.resolve_left (by simp [hd])))]
  · have undue : s.noticeDone = s := by
      unfold State.noticeDone
      rw [← Bool.eq_false_iff.mpr hd]
      rfl
    rw [if_neg hd, undue]

variable (htx : s.lif.tx = none) (hh : s.pins.linkHold = false) (hre : s.lif.replies = [])

include htx hh hre

/-- While a reset is pending nothing follows the replies (R177). -/
theorem State.arbitrate_resetPending (hp : s.lif.resetPending = true) : s.arbitrate = s := by
  unfold State.arbitrate
  rw [if_neg (by simp [htx, hh]), hre]
  exact if_pos hp

theorem State.arbitrate_unsolicited (hp : s.lif.resetPending = false) : s.arbitrate = s.chooseUnsolicited := by
  unfold State.arbitrate
  rw [if_neg (by simp [htx, hh]), hre]
  exact if_neg (by simp [hp])

end free

/-- What a free arbiter begins to send, by the order of R175. -/
def State.nextRecord (s : State) : Option Record :=
  s.lif.replies.head?.or (
    if s.lif.resetPending then none
    else if s.lif.noticeDue = true ∧ s.ntu.noticeSet ≠ 0 then some s.noticeRecord
    else s.lif.reports.head?.or ((s.takeImage.map (·.1)).or (s.takePreview.map (·.1))))

/-- A free arbiter sends the first record available (R175, R177). -/
theorem State.arbitrate_tx {s : State} (htx : s.lif.tx = none) (hh : s.pins.linkHold = false) :
    s.arbitrate.lif.tx = s.nextRecord := by
  unfold State.nextRecord
  cases hre : s.lif.replies with
  | cons r rest =>
    rw [State.arbitrate_head htx hh hre]
    exact State.dispatchWaiting_tx _
  | nil =>
    rw [List.head?_nil, Option.none_or]
    split
    case isTrue hp => rw [State.arbitrate_resetPending htx hh hre hp, htx]
    case isFalse hp =>
      rw [State.arbitrate_unsolicited htx hh hre (Bool.eq_false_iff.mpr hp)]
      split
      case isTrue hn => rw [State.chooseUnsolicited_notice hn.1 hn.2]; rfl
      case isFalse hn =>
        have undue : s.lif.noticeDue = false ∨ s.ntu.noticeSet = 0 := by
          simpa [or_iff_not_imp_left] using hn
        have image : s.noticeDone.takeImage.map (·.1) = s.takeImage.map (·.1) :=
          State.takeImage_record rfl rfl rfl rfl
        have preview : s.noticeDone.takePreview.map (·.1) = s.takePreview.map (·.1) := State.takePreview_record rfl
        rw [State.chooseUnsolicited_data undue, State.chooseData_tx (s := s.noticeDone) htx, image, preview]
        show (match s.lif.reports with | x :: _ => some x | [] => _) = _
        cases s.lif.reports <;> rfl

/-- Settles O8: the record taken, the room it leaves, and the order in which a row settles. -/
theorem arbiterTakesTheFirstAvailable : Obligations.ArbiterTakesTheFirstAvailable := by
  refine ⟨fun s x htx hh hr => ?first, fun s u x r rest p waiting htx hh hn hre hd hrep hw hp hu => ?room,
    fun s t => ⟨State.settleStep_output, State.settleStep_marker, State.settleStep_drain⟩,
    fun k at_ hk hstep hend => State.settleN_of_chain hk hstep hend,
    fun s p before after h1 h2 h3 horder hb hp hw => ?offer⟩
  case first =>
    refine ⟨s.recordEnds, rfl, ?_⟩
    have image : (s.setLif { s.lif with tx := none }).takeImage.map (·.1) = s.takeImage.map (·.1) :=
      State.takeImage_record rfl rfl rfl rfl
    have preview : (s.setLif { s.lif with tx := none }).takePreview.map (·.1) = s.takePreview.map (·.1) :=
      State.takePreview_record rfl
    rw [State.recordEnds_next htx hr, State.arbitrate_tx (s := s.setLif { s.lif with tx := none }) rfl hh,
      State.nextRecord, image, preview]
    dsimp only [State.setLif_lif]
    cases s.lif.replies with
    | cons r rest => rfl
    | nil =>
      refine (Option.none_or).trans (if_congr Iff.rfl rfl (if_congr Iff.rfl rfl ?_))
      cases s.lif.reports with
      | cons r rest => rfl
      | nil => cases s.takeImage <;> cases s.takePreview <;> rfl
  case room =>
    refine congrArg Host.Outcome.next ((State.recordEnds_report htx hh hre hn hd hrep).trans ?_)
    exact congrArg State.settle (State.giveRoom_head hw hp hu.symm)
  case offer =>
    rw [State.settleStep_offer h1 h2 h3 (State.offering_first horder hb hp hw)]
    refine congrArg some (if_congr Iff.rfl rfl ?_)
    exact State.joinWaitList_new hw

/-! ## LINK_HOLD (R176) -/

theorem State.slotWaits_eq_false_iff {s : State} : s.slotWaits = false ↔
    s.lif.slot = none ∨ s.cap.afe ≠ none ∨ s.lif.resetPending = true := by
  unfold State.slotWaits
  cases s.lif.slot with
  | none => simp
  | some r => cases s.cap.afe <;> simp

/-- LINK_HOLD has gone. -/
def State.holdGone (s : State) : State := s.setPins { s.pins with linkHold := false }

theorem exec_linkHoldInactive {s : State} (h : s.pins.linkHold = true) :
    exec .linkHoldInactive s = .next s.holdGone.arbitrate := congrArg Host.Outcome.next (if_pos h)

/-- While LINK_HOLD lasts, a record that ends is followed by none (R176). -/
theorem State.recordEnds_held {s : State} (hh : s.pins.linkHold = true) (hr : s.sendsResetReply = false) :
    s.recordEnds = s.setLif { s.lif with tx := none } := by
  cases htx : s.lif.tx with
  | none =>
    have idle : s.recordEnds = s := by
      unfold State.recordEnds
      rw [htx]
    rw [idle, ← htx]
    rfl
  | some x =>
    rw [State.recordEnds_next htx hr]
    exact State.arbitrate_waits hh

/-- Settles O9: the arbiter waits, or is free and takes the first record that is there. -/
theorem linkHoldStopsTheArbiter : Obligations.LinkHoldStopsTheArbiter := by
  intro s
  refine ⟨rfl, fun hh hr => congrArg Host.Outcome.next (State.recordEnds_held hh hr), fun hh x htx => ?sending,
    fun hh => congrArg Host.Outcome.next (if_neg (by simp [hh])), fun hh htx going hgoing => ?goes⟩
  case sending =>
    rw [exec_linkHoldInactive hh]
    exact congrArg Host.Outcome.next (State.arbitrate_waits (s := s.holdGone) (Bool.or_eq_true_iff.mpr
      (.inl (Option.isSome_of_eq_some htx))))
  case goes =>
    obtain rfl : going = s.holdGone := hgoing
    have row {u : State} (hu : s.holdGone.arbitrate = u) : exec .linkHoldInactive s = .next u := by
      rw [exec_linkHoldInactive hh, hu]
    refine ⟨fun r rest taken hre htaken => ?reply,
      fun hre hp => row (State.arbitrate_resetPending (s := s.holdGone) htx rfl hre hp), fun hre hp => ?unsolicited⟩
    case reply =>
      subst htaken
      have slot (h : s.lif.slot = none ∨ s.cap.afe ≠ none ∨ s.lif.resetPending = true ∨ 4 ≤ rest.length) :
          s.slotWaits = false ∨ 4 ≤ rest.length := by
        rw [State.slotWaits_eq_false_iff]
        tauto
      refine ⟨fun h => row (State.arbitrate_sends (s := s.holdGone) htx rfl hre (slot h)),
        fun x p u hs ha hn hroom hj hp =>
          row (State.arbitrate_answers (s := s.holdGone) htx rfl hre hs ha hn hroom hj hp)⟩
    case unsolicited =>
      have free := State.arbitrate_unsolicited (s := s.holdGone) htx rfl hre hp
      refine ⟨fun hd hset => row (free.trans (State.chooseUnsolicited_notice (s := s.holdGone) hd hset)),
        fun hd v hv => ?_⟩
      obtain rfl : v = s.holdGone.noticeDone := hv
      have data {u : State} (hu : s.holdGone.noticeDone.chooseData = u) : exec .linkHoldInactive s = .next u :=
        row ((free.trans (State.chooseUnsolicited_data (s := s.holdGone) hd)).trans hu)
      have image : s.holdGone.noticeDone.takeImage.map (·.1) = s.takeImage.map (·.1) :=
        State.takeImage_record rfl rfl rfl rfl
      have preview : s.holdGone.noticeDone.takePreview.map (·.1) = s.takePreview.map (·.1) :=
        State.takePreview_record rfl
      refine ⟨fun r rest hrep hw hs => data (State.chooseData_alone hrep hw (State.settled_of_still hs rfl rfl rfl)),
        fun r rest p waiting u hrep hw hp hu => data (State.chooseData_room hrep hw hp hu.symm),
        fun hrep => ⟨fun r u hi => data (State.chooseData_image hrep hi), fun hi => ?_⟩⟩
      rw [hi, Option.map_none, Option.map_eq_none_iff] at image
      refine ⟨fun r u hp => data (State.chooseData_preview hrep image hp), fun hp => ?_⟩
      rw [hp, Option.map_none, Option.map_eq_none_iff] at preview
      exact data (State.chooseData_none hrep image preview)

end Sys2Proof.Machine

/-! PROOF. Commands that act on nothing or on the Notice Unit alone: refused forms, IDENTIFY, STATUS, the refusals and
the layout of SETUP, CAUSE_ENABLE and CAUSE_CLEAR (O15, O17, O18, O20, O21, O36, O37). -/

namespace Sys2Proof.Machine

open Sys2Proof

/-! ## Form (R179, R197, R198) -/

theorem Kind.formOk_eq_false_iff {k : Kind} {p : List Byte} :
    k.formOk p = false ↔ p.length ≠ k.length p ∨ k.choicesOk p = false := by
  rw [Kind.formOk, Bool.and_eq_false_iff, decide_eq_false_iff_not]

theorem flagAt_eq_false_iff {p : List Byte} {i : Nat} : flagAt p i = false ↔ 1 < u8 p i := by
  simp [flagAt]

/-- The first SETUP flag that is neither 0 nor 1, as its byte in the reply (R198). -/
theorem badFieldReply_badFlagField (p : List Byte) : badFieldReply (badFlagField p) =
    if 1 < u8 p 28 then [2#8, 15#8] else if 1 < u8 p 29 then [2#8, 16#8] else [2#8, 17#8] := by
  simp only [badFlagField, Bool.not_eq_true', flagAt_eq_false_iff, apply_ite badFieldReply]
  rfl

/-- What a refused form is answered with: SETUP alone names a field (R198). -/
theorem Kind.formReply_eq (k : Kind) (p : List Byte) : k.formReply p =
    if k ≠ .setup then [2#8]
    else if p.length ≠ 32 then [2#8, 0#8]
    else if 1 < u8 p 28 then [2#8, 15#8]
    else if 1 < u8 p 29 then [2#8, 16#8]
    else [2#8, 17#8] := by
  unfold Kind.formReply
  by_cases hk : k = .setup
  · subst hk
    rw [if_pos rfl, if_neg (not_not_intro rfl), badFieldReply_badFlagField]
    rfl
  · rw [if_neg hk, if_pos hk]
    rfl

/-- Settles O15: the form step of R179 refuses the command. -/
theorem badFormChangesNothing : Obligations.BadFormChangesNothing := by
  intro r k s hr hk hl htaken hbad
  refine ⟨_, exec_rowOf s hk, ?_⟩
  rw [← code_of_kindOf hk, ← replyKind_code, ← Kind.formReply_eq]
  exact hr.badForm hl htaken (Kind.formOk_eq_false_iff.mpr hbad)

/-! ## IDENTIFY and STATUS (R180, R181) -/

/-- Settles O17: the reply is `identity`, byte by byte. -/
theorem identifyNamesThePart : Obligations.IdentifyNamesThePart := by
  intro tag s hr
  exact ⟨_, rfl, hr.taken (k := .identify) (Nat.zero_le _) (refusesNow_eq_false rfl (.inl rfl)) rfl rfl hr.noReset⟩

/-- Settles O18: at its dispatch STATUS sees the state in which it arrived, but for the framer and the slot. -/
theorem statusReportsTheDevice : Obligations.StatusReportsTheDevice := by
  intro tag s hr
  exact ⟨_, rfl, hr.taken (k := .status) (Nat.zero_le _) (refusesNow_eq_false rfl (.inl rfl)) rfl rfl hr.noReset⟩

/-! ## The tests and the layout of SETUP (R182, R197) -/

/-- The field that the tests of the table refuse, 0 for none; `gl` is at least 128 once clamped. -/
theorem Setup.getD_refusedField {u : Setup} (hgl : 8 ≤ u.gl) : u.refusedField.getD 0 =
    if u.n < 1 ∨ 60000 < u.n then 2
    else if u.w < 64 ∨ 8192 < u.w ∨ u.w % 16 ≠ 0 then 3
    else if ¬(u.wl < u.wr ∧ u.wr < u.w ∧ 64 ≤ u.wr - u.wl + 1) then 4
    else if u.gl - 8 < u.il then 8
    else if 127 < u.afeAddress then 18
    else if 65535 < u.p0 + u.n - 1 then 19
    else 0 := by
  have window : u.wr ≤ u.wl ∨ u.w ≤ u.wr ∨ u.wr + 1 - u.wl < 64 ↔
      ¬(u.wl < u.wr ∧ u.wr < u.w ∧ 64 ≤ u.wr - u.wl + 1) := by omega
  have levels : u.gl < u.il + 8 ↔ u.gl - 8 < u.il := by omega
  have range : Config.maxHalf + 1 < u.p0 + u.n ↔ 65535 < u.p0 + u.n - 1 := by
    simp only [Config.maxHalf]
    omega
  unfold Setup.refusedField
  simp only [window, levels, range, apply_ite (Option.getD · 0), Option.getD_some, Option.getD_none]

theorem Setup.gl_clamped (u : Setup) : 128 ≤ u.clamped.gl := le_max_left _ _

/-- Settles O20: the first test that fails gives the field, and the setup stays. -/
theorem setupNamesTheRefusedField : Obligations.SetupNamesTheRefusedField := by
  intro tag p s u field hr ho hl f1 f2 f3 hu hfield hne
  have refused : (setupOf p).clamped.refusedField = some field := by
    have hgl := (setupOf p).gl_clamped
    rw [← hu] at hgl ⊢
    rw [← Setup.getD_refusedField (by omega)] at hfield
    cases hf : u.refusedField with
    | none => exact absurd (by rw [hfield, hf]; rfl) hne
    | some x => rw [hfield, hf]; rfl
  refine ⟨_, rfl, hr.taken (k := .setup) (by simp [hl, Config.receiveLimit])
    (refusesNow_eq_false (by simp [Kind.takenIn, ho]) (.inl rfl))
    (by simp [Kind.formOk, Kind.length, Kind.choicesOk, flagAt, hl, f1, f2, f3]) ?_ hr.noReset⟩
  simp only [State.act, State.actSetup, refused]
  rfl

/-! A field is read at its offset by passing over the bytes before it, and a field laid out at the head is read back
(R195). -/

section layout

variable (b : Byte) (p : List Byte) (i : Nat)

theorem u8_cons_succ : u8 (b :: p) (i + 1) = u8 p i := rfl

theorem u16_cons_succ : u16 (b :: p) (i + 1) = u16 p i := rfl

theorem onAt_cons_succ : onAt (b :: p) (i + 1) = onAt p i := rfl

theorem u8_byte {n : Nat} (h : n ≤ 255) : u8 (byte n :: p) 0 = n := by
  show (byte n).toNat = n
  simp only [byte, BitVec.toNat_ofNat]
  omega

theorem u16_le16 {n : Nat} (h : n < 65536) : u16 (byte n :: byte (n / 256) :: p) 0 = n := length_bytes h

theorem onAt_flagByte (f : Bool) : onAt (flagByte f :: p) 0 = f := by cases f <;> rfl

end layout

/-- Each field of a setup in range is read back from its place in the payload (R197). -/
theorem setupOf_bytes {u : Setup} (h : SetupInRange u) : setupOf u.bytes = u := by
  obtain ⟨p0, n, w, window, lp, ⟨baseR, baseG, baseIR⟩, gl, il, gapMin, imageMin, mfl, edge, t, d, k, afe, _⟩ := h
  simp (disch := omega) only [setupOf, Setup.bytes, le16, List.cons_append, List.nil_append, u8_cons_succ,
    u16_cons_succ, onAt_cons_succ, u8_byte, u16_le16, onAt_flagByte]

theorem clamp_eq_self {lo hi x : Nat} (h1 : lo ≤ x) (h2 : x ≤ hi) : clamp lo hi x = x := by
  rw [clamp, min_eq_right h2, max_eq_right h1]

/-- No clamp touches a setup in range (R182). -/
theorem Setup.clamped_eq_self {u : Setup} (h : SetupInRange u) : u.clamped = u := by
  obtain ⟨⟨baseR, -⟩, ⟨baseG, -⟩, baseIR, -⟩ := h.bases
  unfold Setup.clamped
  rw [clamp_eq_self h.lp.1 h.lp.2, max_eq_right baseR, max_eq_right baseG, max_eq_right baseIR,
    clamp_eq_self h.gl.1 h.gl.2, clamp_eq_self h.il.1 (by have := h.il.2; have := h.gl.2; omega),
    clamp_eq_self h.gapMin.1 h.gapMin.2, clamp_eq_self h.imageMin.1 h.imageMin.2, clamp_eq_self h.mfl.1 h.mfl.2,
    clamp_eq_self h.edge.1 h.edge.2, clamp_eq_self h.t.1 h.t.2, min_eq_right h.d]

/-- Settles O21: field by field, and the ranges are those of the clamps and the tests. -/
theorem setupLayoutIsReadBack : Obligations.SetupLayoutIsReadBack := by
  intro u h
  have window := h.window
  have together := h.together
  exact ⟨rfl, setupOf_bytes h, Setup.clamped_eq_self h,
    Setup.refusedField_none h.n h.w (by omega) h.il.2 h.afeAddress (by omega)⟩

/-! ## Causes (R191, R192) -/

/-- A notice that a row makes due adds to one that is due already (R174, R190). -/
theorem State.noticeDue_ite (s : State) (c : Prop) [Decidable c] : (if c then s.noticeDue else s) =
    s.setLif { s.lif with noticeDue := s.lif.noticeDue || decide c } := by
  by_cases h : c
  · rw [if_pos h, decide_eq_true h, Bool.or_true]
    rfl
  · rw [if_neg h, decide_eq_false h, Bool.or_false]
    rfl

theorem State.enableCauses_form (s : State) (set : CauseSet) : s.enableCauses set =
    (s.setNtu { s.ntu with enabled := set }).setLif { s.lif with
      noticeDue := s.lif.noticeDue || decide (set &&& ~~~s.ntu.enabled &&& s.ntu.pending ≠ 0) } :=
  State.noticeDue_ite _ _

theorem State.clearCauses_form (s : State) (named : CauseSet) : s.clearCauses named =
    (s.setNtu { s.ntu with pending := (s.ntu.pending &&& ~~~named) ||| s.heldLevels named }).setLif { s.lif with
      noticeDue := s.lif.noticeDue || decide (s.heldLevels named &&& s.ntu.enabled ≠ 0) } :=
  State.noticeDue_ite _ _

/-- The named causes whose level holds, out of the levels that hold (R189, R192). -/
theorem State.heldLevels_eq (s : State) (named : CauseSet) : s.heldLevels named =
    named &&& ((if s.pins.holder then 0#9 else 0x004#9) ||| (if s.ntu.haltedCond then 0x100#9 else 0#9)) := by
  rw [BitVec.and_or_distrib_left, apply_ite (named &&& ·), apply_ite (named &&& ·), BitVec.and_zero]
  rfl

/-- CAUSE_ENABLE and CAUSE_CLEAR refuse a set that names any other cause than the nine, in every state, and else
take it (R179, R191, R192). -/
theorem Ready.causes {s u : State} (h : Ready s) {k : Kind} (hk : k = .causeEnable ∨ k = .causeClear) (tag : Byte)
    {p reply : List Byte} (hl : p.length = 2)
    (ha : (s.atDispatch ⟨k.code, tag, p⟩).act k p = ⟨u.atDispatch ⟨k.code, tag, p⟩, some reply⟩)
    (hu : u.lif.resetPending = false) :
    if u16 p 0 < 512 then Replied u (s.commandRow k.code tag p) ⟨replyKind k.code, tag, reply⟩
    else Replied s (s.commandRow k.code tag p) ⟨replyKind k.code, tag, [2#8]⟩ := by
  have hfits : p.length ≤ Config.receiveLimit := by simp [hl, Config.receiveLimit]
  have hfree : s.refusesNow k = false := by
    rcases hk with rfl | rfl <;> exact refusesNow_eq_false rfl (.inl rfl)
  have hform : k.formOk p = decide (u16 p 0 < 512) := by
    rcases hk with rfl | rfl <;> simp [Kind.formOk, Kind.length, Kind.choicesOk, hl]
  have hreply : k.formReply p = [2#8] := by rcases hk with rfl | rfl <;> rfl
  split
  · exact h.taken hfits hfree (by simpa [hform]) ha hu
  · rw [← hreply]
    exact h.badForm hfits hfree (by simpa [hform] using ‹¬u16 p 0 < 512›)

/-- Settles O36: `State.enableCauses` in closed form. -/
theorem causeEnableReplacesTheSet : Obligations.CauseEnableReplacesTheSet := by
  rintro tag p s _ hr hl rfl
  refine ⟨_, rfl, hr.causes (k := .causeEnable) (.inl rfl) tag hl ?_ hr.noReset⟩
  simp only [State.act, State.actCauseEnable, State.enableCauses_form]
  rfl

/-- Settles O37: `State.clearCauses` in closed form, with the levels that hold. -/
theorem causeClearKeepsStandingLevels : Obligations.CauseClearKeepsStandingLevels := by
  rintro tag p s _ _ hr hl rfl rfl
  refine ⟨_, rfl, hr.causes (k := .causeClear) (.inr rfl) tag hl ?_ hr.noReset⟩
  simp only [State.act, State.actCauseClear, State.clearCauses_form, State.heldLevels_eq]
  rfl

end Sys2Proof.Machine

/-! PROOF. The queue of commands: the row that a step runs, and what no row changes of the queue (O1, O2). -/

namespace Sys2Proof.Machine

open Sys2Proof

/-- A step with a command at the front of the queue is that command's row, on the queue's rest (log 1). -/
theorem step_of_cons {c : Instr} {rest : List Instr} {s : State} (h : s.pending = c :: rest) :
    step s = exec c (s.setPending rest) := by
  rw [step, h]

/-- On an empty queue the block idles (log 2). -/
theorem step_of_nil {s : State} (h : s.pending = []) : step s = .next s := by
  rw [step, h]

/-- Settles O1: the two cases of the queue. -/
theorem stepRunsFrontCommand : Obligations.StepRunsFrontCommand :=
  ⟨fun _ _ _ => step_of_cons, fun _ => step_of_nil⟩

theorem Reaction.pending {s u : State} (r : Reaction s u) : u.pending = s.pending := by
  cases r with
  | holderLeaves => exact s.pending_holderLeaves
  | homeRises => exact s.pending_homeRises
  | homeFalls => exact s.pending_homeFalls
  | homeLimit => exact s.pending_homeLimit
  | endRises => exact s.pending_endRises
  | motorStep b e => rw [State.pending_intervalExpires, State.pending_endFell]
  | brakingStep b => rw [State.pending_brakingExpires, State.pending_endFell]
  | holdExpires => exact s.pending_holdExpires
  | rampStep => exact s.setTrc_pending _
  | lateLine => exact s.pending_lateLine
  | pixels d px => exact s.pending_pixelsArrive d px
  | finishRepair e => exact s.pending_finishRepair e
  | warmupEnds => exact s.pending_warmupEnds
  | calTimerEnds => exact s.pending_calTimerEnds

/-- No end of a row touches the queue: the resets hand it on, and every block's operation leaves it alone. -/
theorem RowEnd.pending {s t : State} (r : RowEnd s t) : t.pending = s.pending := by
  cases r with
  | same | powerOn => rfl
  | softReset => exact s.pending_softReset
  | bytes bs => exact s.pending_takeBytes bs
  | linkError e => exact s.pending_linkError e
  | command k t p => exact s.pending_commandRow k t p
  | recordEnds => exact s.pending_recordEnds
  | pins x => exact s.setPins_pending x
  | released x => rw [State.pending_arbitrate, State.setPins_pending]
  | settled r => rw [State.pending_finish, r.pending]
  | darkCapture _ => exact s.setCap_pending _
  | transferEnds n d _ => exact s.pending_transferEnds _ n d

/-- Settles O2: every row answers next with one of the ways of `RowEnd`, each of which keeps the queue. -/
theorem everyRowAnswersNextAndKeepsTheQueue : Obligations.EveryRowAnswersNextAndKeepsTheQueue := by
  intro c s
  obtain ⟨t, answers, ends⟩ := exec_rowEnd c s
  exact ⟨t, answers, ends.pending⟩

end Sys2Proof.Machine
